-- ==== Sys2Proof/Word.lean ====
section
/-! DEFINITION. The engine's data: bytes, bus words, columns (the key schedule's 4-byte words), 16-byte blocks,
the 8-byte nonce and the file of eleven round keys. -/

namespace Sys2Proof

/-- An unsigned 8-bit value (R9). -/
abbrev Byte := BitVec 8

/-- A 32-bit bus word or command word (R7, R52, R70). -/
abbrev Word := BitVec 32

/-- Four bytes `(a0, a1, a2, a3)`: a column of a block, row 0 first, and a word of the key schedule (R10, R11). -/
@[ext] structure Column where
  a0 : Byte
  a1 : Byte
  a2 : Byte
  a3 : Byte
deriving DecidableEq, Repr

/-- A Block: 16 bytes stored column-major, so that column c holds bytes `4c .. 4c+3` (R10). -/
@[ext] structure Block where
  c0 : Column
  c1 : Column
  c2 : Column
  c3 : Column
deriving DecidableEq, Repr

/-- The 8-byte nonce in block order: bytes 0..3, then bytes 4..7 (R28). -/
@[ext] structure Nonce where
  n0 : Column
  n1 : Column
deriving DecidableEq, Repr

/-- The round-key schedule, 11 Blocks in round order 0..10 (R21). -/
abbrev RoundKeys := Vector Block 11

/-- Four zero bytes. -/
def Column.zero : Column := ⟨0, 0, 0, 0⟩

/-- Sixteen zero bytes. -/
def Block.zero : Block := ⟨.zero, .zero, .zero, .zero⟩

/-- Eight zero bytes. -/
def Nonce.zero : Nonce := ⟨.zero, .zero⟩

end Sys2Proof
end

