-- ==== Sys2Proof/Config.lean ====
section
/-! DEFINITION. What an implementation or its platform fixes (R8), and the free values. -/

namespace Sys2Proof

/-- The order in which the 64-bit counter becomes bytes 8..15 of the counter block (parameter CTR_ORDER of R8; C1).
The spec leaves both values open, so both are modelled. -/
inductive CtrOrder where
  /-- Most significant byte first: the default of R8. -/
  | be
  /-- Least significant byte first. -/
  | le
deriving DecidableEq, Repr

/-- The parameters of R8 that a model takes as an argument. `State` carries them as plain data that no event changes, so a
claim about every state is a claim about every choice of them (logs 1 and 2). LAT has no rule that depends on it and is
carried by the schedule of events (log 10). BUSERR_RESPONSE is an uninterpreted answer of `Seen` (log 7). -/
structure Params where
  /-- Byte order of the CTR serialisation. -/
  ctrOrder : CtrOrder
  /-- Host address of window offset 0x000. -/
  base : Nat
deriving DecidableEq, Repr

/-- R8: BASE is aligned to 0x200. -/
def Params.wf (p : Params) : Bool := p.base % 0x200 == 0

/-- `draw()` of R12 and R67: the k-th unspecified word that a read during BUSY returns. It has no body, so nothing can be
proved of its values; `State.draws` counts the draws, so that each read has a value of its own (log 3). -/
opaque Config.draw : Nat → Word

end Sys2Proof
end

