-- ==== Sys2Proof/Syntax.lean ====
section
/-! DEFINITION. The commands of AESE-CMD version 1, one constructor per row of the opcode map (R78). -/

namespace Sys2Proof

/-- A command, with the operand fields of its format (R72 to R76). Data operands are implicit registers (R76). -/
inductive Instr where
  | nop
  | keyexp
  | subb
  | isubb
  | shrow
  | ishrow
  | mixcol
  | imixcol
  /-- AddRoundKey with round key ROUND, the 4-bit field of R73. -/
  | ark (round : BitVec 4)
  | encblk
  | decblk
  /-- The mode commands carry NBYTES, the 5-bit field of R74. -/
  | ecbenc (nbytes : BitVec 5)
  | ecbdec (nbytes : BitVec 5)
  | cbcenc (nbytes : BitVec 5)
  | cbcdec (nbytes : BitVec 5)
  | ctrxor (nbytes : BitVec 5)
  /-- Multiply the two immediates A and B (R75). -/
  | gfmul (a b : Byte)
deriving DecidableEq, Repr

end Sys2Proof
end

