-- ==== Sys2Proof/Machine/State.lean ====
section
/-! DEFINITION. The machine's state as plain data, its value after reset, and the reasons a step can stop. -/

namespace Sys2Proof.Machine

/-- The contents of ERRCODE: the codes 0 to 6 of R192. Codes 7 to 15 are never produced, so ERRCODE ranges over these
(I2; log 13). The numbers are `ErrCode.code` of Machine/Flags.lean. -/
inductive ErrCode where
  | none
  | illegalOpcode
  | reservedNonzero
  | roundRange
  | length
  | cmdWhileBusy
  | writeWhileBusy
deriving DecidableEq, Repr

/-- One host bus access of `size` bytes at a host address, `BASE + off` for window offset `off` (R12, R50). The data of a
write is the bus word; only `size = 4` is admitted (R52). -/
inductive Access where
  | read (addr size : Nat)
  | write (addr size : Nat) (v : Word)
deriving DecidableEq, Repr

/-- The events of the one total order (R61, R68) and the reset event. -/
inductive Event where
  /-- A host access. -/
  | access (a : Access)
  /-- The engine's turn: it takes its step if a command is pending (R83), and nothing happens otherwise. -/
  | engine
  /-- Reset, asserted and released, as one atomic event (R220, R222, I17); the host attempted `unanswered` accesses of the
  window while it was asserted (log 9). -/
  | reset (unanswered : Nat)
deriving DecidableEq, Repr

/-- What the host sees of an access. -/
inductive Seen where
  /-- A read returned a word (R67). -/
  | value (v : Word)
  /-- The parameter BUSERR_RESPONSE of R8, uninterpreted: what the platform makes of a bus error (R53) or of an access while
  reset is asserted (R220). -/
  | busErrResponse
deriving DecidableEq, Repr

/-- The engine's registers (R20 to R35), the parameters of R8, and the model's own record of what is still to come and of what
the host has seen. -/
structure State where
  /-- KEY (R20). -/
  key : Block
  /-- RK, the 11 round keys (R21). -/
  rk : RoundKeys
  /-- RKV, round keys valid (R22). -/
  rkv : Bool
  /-- STATE, the register under transformation (R24). -/
  stateReg : Block
  /-- DIN (R25). -/
  din : Block
  /-- DOUT (R26). -/
  dout : Block
  /-- CHAIN (R27). -/
  chain : Block
  /-- NONCE (R28). -/
  nonce : Nonce
  /-- CTR (R29). -/
  ctr : BitVec 64
  /-- GFRES (R30). -/
  gfres : Byte
  /-- ERRCODE (R32). -/
  errcode : ErrCode
  /-- BUSY (R34). -/
  busy : Bool
  /-- PENDING (R35): meaningful only while BUSY = 1. -/
  pending : Word
  /-- The model's own: the implementation parameters (R8), which no event changes. -/
  params : Params
  /-- The model's own: the events still to come, the next one first (R61, R68). -/
  inputs : List Event
  /-- The model's own: what the host has seen of its accesses, the earliest first (R68). -/
  seen : List Seen
  /-- The model's own: how many free values have been drawn; the next draw is `Config.draw draws` (R67). -/
  draws : Nat
deriving DecidableEq, Repr

/-- After reset every register holds the value of R38's table. CTR_ORDER has the default of R8, BASE the value log 1 names;
nothing is to come and nothing has been seen. -/
def State.reset : State where
  key := .zero
  rk := Vector.replicate 11 .zero
  rkv := false
  stateReg := .zero
  din := .zero
  dout := .zero
  chain := .zero
  nonce := .zero
  ctr := 0
  gfres := 0
  errcode := .none
  busy := false
  pending := 0
  params := ⟨.be, 0⟩
  inputs := []
  seen := []
  draws := 0

/-- Why the machine stops. No command does. -/
inductive Fault where
  /-- Raised by a host access whose address is not `BASE + off` with `off` in [0, 0x200): the platform's address decoder does
  not pass it to the engine (R50), which therefore takes no part in it. SAFE: the machine stops where the host's
  platform would go on without touching the engine (log 8). -/
  | outsideWindow (addr : Nat)
deriving DecidableEq, Repr

/-- Why a command has no meaning. -/
inductive Refusal where
  /-- Raised by an arm of `exec` whose instruction has no meaning yet. SAFE: nothing is claimed of it. No arm raises it. -/
  | notModelled (mnemonic : String)
deriving DecidableEq, Repr

/-! ### Named updates, one per field -/

def State.setKey (s : State) (v : Block) : State := { s with key := v }
def State.setRk (s : State) (v : RoundKeys) : State := { s with rk := v }
def State.setRkv (s : State) (v : Bool) : State := { s with rkv := v }
def State.setStateReg (s : State) (v : Block) : State := { s with stateReg := v }
def State.setDin (s : State) (v : Block) : State := { s with din := v }
def State.setDout (s : State) (v : Block) : State := { s with dout := v }
def State.setChain (s : State) (v : Block) : State := { s with chain := v }
def State.setNonce (s : State) (v : Nonce) : State := { s with nonce := v }
def State.setCtr (s : State) (v : BitVec 64) : State := { s with ctr := v }
def State.setGfres (s : State) (v : Byte) : State := { s with gfres := v }
def State.setErrcode (s : State) (v : ErrCode) : State := { s with errcode := v }
def State.setBusy (s : State) (v : Bool) : State := { s with busy := v }
def State.setPending (s : State) (v : Word) : State := { s with pending := v }
def State.setInputs (s : State) (v : List Event) : State := { s with inputs := v }
def State.setSeen (s : State) (v : List Seen) : State := { s with seen := v }
def State.setDraws (s : State) (v : Nat) : State := { s with draws := v }

end Sys2Proof.Machine
end

