-- ==== Sys2Proof/Machine/Operands.lean ====
section
/-! DEFINITION. The byte and word views of the registers (R10, R11), their order on the bus (R55, R56), the register map
(R51), and the legal lengths of the mode commands (R74). -/

namespace Sys2Proof

/-! ### Bytes and words of a block -/

/-- Byte `a_j` of a word, which is row j of a column (R10, R11). -/
def Column.byte (c : Column) (j : Fin 4) : Byte :=
  match j with
  | 0 => c.a0
  | 1 => c.a1
  | 2 => c.a2
  | 3 => c.a3

/-- Column k of a block: its bytes `4k .. 4k+3` (R10, R11). -/
def Block.word (b : Block) (k : Fin 4) : Column :=
  match k with
  | 0 => b.c0
  | 1 => b.c1
  | 2 => b.c2
  | 3 => b.c3

/-- The block with column k replaced. -/
def Block.setWord (b : Block) (k : Fin 4) (c : Column) : Block :=
  match k with
  | 0 => { b with c0 := c }
  | 1 => { b with c1 := c }
  | 2 => { b with c2 := c }
  | 3 => { b with c3 := c }

/-- Byte `B[i]`, which stands at row `i mod 4` and column `i div 4` (R10). -/
def Block.byte (b : Block) (i : Fin 16) : Byte :=
  (b.word ⟨i.val / 4, by omega⟩).byte ⟨i.val % 4, by omega⟩

/-- The block whose byte i is `f i`. -/
def Block.ofBytes (f : Fin 16 → Byte) : Block :=
  ⟨⟨f 0, f 1, f 2, f 3⟩, ⟨f 4, f 5, f 6, f 7⟩, ⟨f 8, f 9, f 10, f 11⟩, ⟨f 12, f 13, f 14, f 15⟩⟩

/-- A block written as 32 hex digits lists `B[0]` first (R10). -/
def Block.ofHex (v : BitVec 128) : Block := Block.ofBytes fun i => v.extractLsb' (120 - 8 * i.val) 8

/-- Bytes 0..3 (k = 0) or 4..7 (k = 1) of the nonce (R28). -/
def Nonce.word (n : Nonce) (k : Fin 2) : Column :=
  match k with
  | 0 => n.n0
  | 1 => n.n1

/-- The nonce with one of its words replaced. -/
def Nonce.setWord (n : Nonce) (k : Fin 2) (c : Column) : Nonce :=
  match k with
  | 0 => { n with n0 := c }
  | 1 => { n with n1 := c }

/-- Byte `NONCE[j]`. -/
def Nonce.byte (n : Nonce) (j : Fin 8) : Byte :=
  (n.word ⟨j.val / 4, by omega⟩).byte ⟨j.val % 4, by omega⟩

/-- Key-schedule word `w[i]` held in RK: column `i mod 4` of `RK[i div 4]` (R21). -/
def scheduleWord (rk : RoundKeys) (i : Fin 44) : Column :=
  (rk[i.val / 4]'(by omega)).word ⟨i.val % 4, by omega⟩

/-! ### Bytewise operations -/

/-- The same function on each byte of a word. -/
def Column.map (f : Byte → Byte) (c : Column) : Column := ⟨f c.a0, f c.a1, f c.a2, f c.a3⟩

/-- Bytewise exclusive OR of two words. -/
def Column.xor (c d : Column) : Column := ⟨c.a0 ^^^ d.a0, c.a1 ^^^ d.a1, c.a2 ^^^ d.a2, c.a3 ^^^ d.a3⟩

/-- The same function on each column of a block. -/
def Block.map (f : Column → Column) (b : Block) : Block := ⟨f b.c0, f b.c1, f b.c2, f b.c3⟩

/-- Bytewise exclusive OR of two blocks. -/
def Block.xor (b d : Block) : Block := ⟨b.c0.xor d.c0, b.c1.xor d.c1, b.c2.xor d.c2, b.c3.xor d.c3⟩

/-! ### Order on the bus -/

/-- R55: `a0 ‖ a1 ‖ a2 ‖ a3`, with a0 in bits [31:24]. -/
def Column.toWord (c : Column) : Word := c.a0 ++ c.a1 ++ c.a2 ++ c.a3

/-- R55 read the other way: byte j of the register word is bits `[31 - 8j : 24 - 8j]` of the bus word. -/
def Column.ofWord (w : Word) : Column :=
  ⟨w.extractLsb' 24 8, w.extractLsb' 16 8, w.extractLsb' 8 8, w.extractLsb' 0 8⟩

/-- CTRHI: `CTR[63:32]` as a plain integer (R56). -/
def ctrHi (v : BitVec 64) : Word := v.extractLsb' 32 32

/-- CTRLO: `CTR[31:0]` as a plain integer (R56). -/
def ctrLo (v : BitVec 64) : Word := v.extractLsb' 0 32

/-- CTR with the half CTRHI replaced. -/
def setCtrHi (v : BitVec 64) (w : Word) : BitVec 64 := w ++ ctrLo v

/-- CTR with the half CTRLO replaced. -/
def setCtrLo (v : BitVec 64) (w : Word) : BitVec 64 := ctrHi v ++ w

/-! ### The register map -/

/-- The registers of the window, one for each row of R51. -/
inductive WinReg where
  | cmd
  | status
  | errcode
  | gfres
  | key (k : Fin 4)
  | stateReg (k : Fin 4)
  | din (k : Fin 4)
  | dout (k : Fin 4)
  | chain (k : Fin 4)
  | nonce (k : Fin 2)
  | ctrHi
  | ctrLo
  | rkw (i : Fin 44)
  | reserved
deriving DecidableEq, Repr

/-- The row of R51 at an aligned offset (the low two bits of the offset are not looked at: R53 turns such an access away
before). -/
def windowReg (off : BitVec 9) : WinReg :=
  let o := off.toNat
  if o < 0x004 then .cmd
  else if o < 0x008 then .status
  else if o < 0x00C then .errcode
  else if o < 0x010 then .gfres
  else if o < 0x020 then .key (Fin.ofNat 4 ((o - 0x010) / 4))
  else if o < 0x030 then .stateReg (Fin.ofNat 4 ((o - 0x020) / 4))
  else if o < 0x040 then .din (Fin.ofNat 4 ((o - 0x030) / 4))
  else if o < 0x050 then .dout (Fin.ofNat 4 ((o - 0x040) / 4))
  else if o < 0x060 then .chain (Fin.ofNat 4 ((o - 0x050) / 4))
  else if o < 0x068 then .nonce (Fin.ofNat 2 ((o - 0x060) / 4))
  else if o < 0x06C then .ctrHi
  else if o < 0x070 then .ctrLo
  else if o < 0x100 then .reserved
  else if o < 0x1B0 then .rkw (Fin.ofNat 44 ((o - 0x100) / 4))
  else .reserved

/-- The platform's address decoder (R50): the window offset of a host address, none if the address does not reach the window.
`off[8:0]` is all that the engine decodes. -/
def windowOffset? (base addr : Nat) : Option (BitVec 9) :=
  if base ≤ addr ∧ addr < base + 0x200 then some (BitVec.ofNat 9 (addr - base)) else none

/-- The only admitted access: 4 bytes, at an offset that is a multiple of 4 (R52, R53). -/
def admitted (off : BitVec 9) (size : Nat) : Bool := size == 4 && off.toNat % 4 == 0

namespace Machine

/-! ### Operands of the commands -/

/-- NBYTES of ECBENC, ECBDEC, CBCENC and CBCDEC must be 16 (R74, R83). -/
def fullBlock (nbytes : BitVec 5) : Bool := nbytes.toNat == 16

/-- NBYTES of CTRXOR must be in 1..16 (R74, R83). -/
def ctrLength (nbytes : BitVec 5) : Bool := !(nbytes.toNat == 0 || decide (nbytes.toNat > 16))

/-- The address of an access. -/
def Access.addr : Access → Nat
  | .read addr _ => addr
  | .write addr _ _ => addr

/-- The number of bytes of an access. -/
def Access.size : Access → Nat
  | .read _ size => size
  | .write _ size _ => size

end Machine

end Sys2Proof
end

