-- ==== Sys2Proof/Machine/Schedule.lean ====
section
/-! DEFINITION. The key schedule (R140 to R144). -/

namespace Sys2Proof

/-- `RotWord(a0, a1, a2, a3) = (a1, a2, a3, a0)` (R140). -/
def rotWord (w : Column) : Column := ⟨w.a1, w.a2, w.a3, w.a0⟩

/-- The S-box on each byte of a word (R141). -/
def subWord (w : Column) : Column := w.map sbox

/-- `Rcon[j]` for j in 1..10 (R142); no other j occurs. -/
def rcon (j : Nat) : Byte :=
  [0x01#8, 0x02#8, 0x04#8, 0x08#8, 0x10#8, 0x20#8, 0x40#8, 0x80#8, 0x1B#8, 0x36#8].getD (j - 1) 0

/-- R142: the byte Rcon[j] is XORed into `a0` of a word only. -/
def xorRcon (j : Nat) (w : Column) : Column := { w with a0 := w.a0 ^^^ rcon j }

/-- Round key j from round key j - 1: the words `w[4j] .. w[4j+3]` of R143, from `w[4j-4] .. w[4j-1]`. -/
def nextRoundKey (j : Nat) (prev : Block) : Block :=
  let w0 := prev.c0.xor (xorRcon j (subWord (rotWord prev.c3)))
  let w1 := prev.c1.xor w0
  let w2 := prev.c2.xor w1
  let w3 := prev.c3.xor w2
  ⟨w0, w1, w2, w3⟩

/-- `KeyExpansion(K)` (R143), its 44 words grouped into the 11 round keys (R144). -/
def keyExpansion (k : Block) : RoundKeys :=
  let k1 := nextRoundKey 1 k
  let k2 := nextRoundKey 2 k1
  let k3 := nextRoundKey 3 k2
  let k4 := nextRoundKey 4 k3
  let k5 := nextRoundKey 5 k4
  let k6 := nextRoundKey 6 k5
  let k7 := nextRoundKey 7 k6
  let k8 := nextRoundKey 8 k7
  let k9 := nextRoundKey 9 k8
  let k10 := nextRoundKey 10 k9
  #v[k, k1, k2, k3, k4, k5, k6, k7, k8, k9, k10]

end Sys2Proof
end

