-- ==== Sys2Proof/Machine/Field.lean ====
section
/-! DEFINITION. The GF(2^8) multiplier, modulo x^8 + x^4 + x^3 + x + 1 (R100). -/

namespace Sys2Proof

/-- One left shift of `a`, with 0x1B XORed in when the shift overflows the 8th bit (R100). -/
def shiftReduce (a : Byte) : Byte := if a.getLsbD 7 then (a <<< 1) ^^^ 0x1B#8 else a <<< 1

/-- The iterations of R100 still to do, from an accumulator and the current `a` and `b`. -/
def multiplyFrom : Nat → Byte → Byte → Byte → Byte
  | 0, acc, _, _ => acc
  | n + 1, acc, a, b =>
    multiplyFrom n (if b.getLsbD 0 then acc ^^^ a else acc) (shiftReduce a) (b >>> 1)

/-- `multiply(a, b)`: eight iterations from the zero accumulator (R100). -/
def multiply (a b : Byte) : Byte := multiplyFrom 8 0x00#8 a b

end Sys2Proof
end

