-- ==== Sys2Proof/Machine/Transforms.lean ====
section
/-! DEFINITION. The four round transforms and their inverses, as functions on a Block (R113 to R119). -/

namespace Sys2Proof

/-- `SubBytes(s)[i] = S(s[i])` (R113). -/
def subBytes (s : Block) : Block := s.map (Column.map sbox)

/-- `InvSubBytes(s)[i] = IS(s[i])` (R114). -/
def invSubBytes (s : Block) : Block := s.map (Column.map invSbox)

/-- Row r moves left by r: row r of column c comes from column `(c + r) mod 4` (R115). -/
def shiftRows (s : Block) : Block :=
  ⟨⟨s.c0.a0, s.c1.a1, s.c2.a2, s.c3.a3⟩,
   ⟨s.c1.a0, s.c2.a1, s.c3.a2, s.c0.a3⟩,
   ⟨s.c2.a0, s.c3.a1, s.c0.a2, s.c1.a3⟩,
   ⟨s.c3.a0, s.c0.a1, s.c1.a2, s.c2.a3⟩⟩

/-- Row r moves right by r: row r of column c comes from column `(c - r) mod 4` (R116). -/
def invShiftRows (s : Block) : Block :=
  ⟨⟨s.c0.a0, s.c3.a1, s.c2.a2, s.c1.a3⟩,
   ⟨s.c1.a0, s.c0.a1, s.c3.a2, s.c2.a3⟩,
   ⟨s.c2.a0, s.c1.a1, s.c0.a2, s.c3.a3⟩,
   ⟨s.c3.a0, s.c2.a1, s.c1.a2, s.c0.a3⟩⟩

/-- A matrix row times a column: the XOR over j of `multiply(row[j], column[j])` (R117). -/
def rowTimesColumn (row c : Column) : Byte :=
  multiply row.a0 c.a0 ^^^ multiply row.a1 c.a1 ^^^ multiply row.a2 c.a2 ^^^ multiply row.a3 c.a3

/-- The matrix M of R117, a row a word. -/
def mixMatrix : Block :=
  ⟨⟨0x02, 0x03, 0x01, 0x01⟩, ⟨0x01, 0x02, 0x03, 0x01⟩, ⟨0x01, 0x01, 0x02, 0x03⟩, ⟨0x03, 0x01, 0x01, 0x02⟩⟩

/-- The matrix IM of R118, a row a word. -/
def invMixMatrix : Block :=
  ⟨⟨0x0e, 0x0b, 0x0d, 0x09⟩, ⟨0x09, 0x0e, 0x0b, 0x0d⟩, ⟨0x0d, 0x09, 0x0e, 0x0b⟩, ⟨0x0b, 0x0d, 0x09, 0x0e⟩⟩

/-- A 4×4 matrix times a column, row by row. -/
def matrixTimesColumn (m : Block) (c : Column) : Column :=
  ⟨rowTimesColumn m.c0 c, rowTimesColumn m.c1 c, rowTimesColumn m.c2 c, rowTimesColumn m.c3 c⟩

/-- Each column is replaced by M times it (R117). -/
def mixColumns (s : Block) : Block := s.map (matrixTimesColumn mixMatrix)

/-- Each column is replaced by IM times it (R118). -/
def invMixColumns (s : Block) : Block := s.map (matrixTimesColumn invMixMatrix)

/-- `AddRoundKey(s, k)[i] = s[i] ^ k[i]` (R119). -/
def addRoundKey (s k : Block) : Block := s.xor k

end Sys2Proof
end

