-- ==== Sys2Proof/Machine/Cipher.lean ====
section
/-! DEFINITION. The single-block cipher and its inverse (R150, R151), and the counter block of CTR mode (R165, R166). -/

namespace Sys2Proof

/-- The round numbers 1..9 of the middle rounds, in order (R150). -/
def middleRounds : List (Fin 11) := [1, 2, 3, 4, 5, 6, 7, 8, 9]

/-- The same, `9 downTo 1` (R151). -/
def middleRoundsDown : List (Fin 11) := [9, 8, 7, 6, 5, 4, 3, 2, 1]

/-- One of the rounds 1..9 (R150). -/
def encRound (rk : RoundKeys) (s : Block) (i : Fin 11) : Block :=
  addRoundKey (mixColumns (shiftRows (subBytes s))) rk[i]

/-- `Cipher(p, RK)` (R150). -/
def cipher (p : Block) (rk : RoundKeys) : Block :=
  let s := middleRounds.foldl (encRound rk) (addRoundKey p rk[0])
  addRoundKey (shiftRows (subBytes s)) rk[10]

/-- One of the rounds 9 down to 1 (R151). -/
def decRound (rk : RoundKeys) (s : Block) (i : Fin 11) : Block :=
  invMixColumns (addRoundKey (invSubBytes (invShiftRows s)) rk[i])

/-- `InvCipher(c, RK)` (R151). -/
def invCipher (c : Block) (rk : RoundKeys) : Block :=
  let s := middleRoundsDown.foldl (decRound rk) (addRoundKey c rk[10])
  addRoundKey (invSubBytes (invShiftRows s)) rk[0]

/-- `Ser(v)[j]`: the most significant byte first, or the least (R166). -/
def serCtr (order : CtrOrder) (v : BitVec 64) (j : Fin 8) : Byte :=
  match order with
  | .be => v.extractLsb' (56 - 8 * j.val) 8
  | .le => v.extractLsb' (8 * j.val) 8

/-- `CtrBlock(NONCE, CTR)`: the nonce in bytes 0..7, the serialised counter in bytes 8..15 (R165). -/
def ctrBlock (order : CtrOrder) (nonce : Nonce) (ctr : BitVec 64) : Block :=
  let ser := serCtr order ctr
  ⟨nonce.n0, nonce.n1, ⟨ser 0, ser 1, ser 2, ser 3⟩, ⟨ser 4, ser 5, ser 6, ser 7⟩⟩

/-- The output of one CTR block: DIN XOR keystream on the first `n` bytes, and 0x00 above (R167). -/
def ctrOutput (n : Nat) (din ks : Block) : Block :=
  Block.ofBytes fun j => if j.val < n then din.byte j ^^^ ks.byte j else 0x00#8

end Sys2Proof
end

