-- ==== Sys2Proof/Machine/Flags.lean ====
section
/-! DEFINITION. The error codes' numbers and the fields of STATUS. -/

namespace Sys2Proof.Machine

/-- The numbers of R192. -/
def ErrCode.code : ErrCode → BitVec 4
  | .none => 0
  | .illegalOpcode => 1
  | .reservedNonzero => 2
  | .roundRange => 3
  | .length => 4
  | .cmdWhileBusy => 5
  | .writeWhileBusy => 6

/-- STATUS.ERRF: 1 if and only if ERRCODE ≠ 0 (R31). -/
def errf (s : State) : Bool := s.errcode.code != 0

/-- STATUS: `zext_32(ERRF ‖ RKV ‖ BUSY)` (R31, R67). -/
def statusWord (s : State) : Word := 0#29 ++ BitVec.ofBool (errf s) ++ BitVec.ofBool s.rkv ++ BitVec.ofBool s.busy

/-- ERRCODE as read on the bus: CODE in bits [3:0], bits [31:4] zero (R32). -/
def errcodeWord (s : State) : Word := 0#28 ++ s.errcode.code

end Sys2Proof.Machine
end

