-- ==== Sys2Proof/Machine/Ops.lean ====
section
/-! DEFINITION. The operations the commands and the host accesses share: recording an error and clearing it, ensuring the round
keys, and the outcome of a command. -/

namespace Sys2Proof.Machine

/-- What a command or an event answers. -/
abbrev Result := Host.Outcome State Fault Refusal

/-- `RecordError(code)`: the first error since the last clear is kept (R191). -/
def recordError (code : ErrCode) (s : State) : State :=
  if s.errcode = .none then s.setErrcode code else s

/-- `raise EngineError(code)`: the engine's only form of an exception. It records the error and ends the command with no other
effect (R12, R199); no state is saved and no vector is taken (R201). -/
def raiseEngineError (code : ErrCode) (s : State) : State := recordError code s

/-- The return from an error: a host write to ERRCODE clears it, whatever data it carries (R32, R202). -/
def clearError (s : State) : State := s.setErrcode .none

/-- A command whose operand check holds has its effect; otherwise it raises the error and does nothing else (R83, R199). -/
def checked (legal : Bool) (code : ErrCode) (effect : State → State) (s : State) : State :=
  if legal then effect s else raiseEngineError code s

/-- The expansion of KEY into RK, which sets RKV (R145, R146). -/
def expandKey (s : State) : State := (s.setRk (keyExpansion s.key)).setRkv true

/-- `EnsureRoundKeys()` (R145). -/
def ensureRoundKeys (s : State) : State := if s.rkv then s else expandKey s

/-- The last line of the engine step: BUSY <- 0, on success and on error (R83). -/
def finish (s : State) : State := s.setBusy false

/-- Continue from a next state; a fault or a refusal stays. -/
def onNext (r : Result) (f : State → State) : Result :=
  match r with
  | .next s => .next (f s)
  | .fault e => .fault e
  | .refused e => .refused e

/-- The host sees something (R68). -/
def see (v : Seen) (s : State) : State := s.setSeen (s.seen ++ [v])

end Sys2Proof.Machine
end

