-- ==== Sys2Proof/Machine/Round.lean ====
section
/-! DEFINITION. The round-transform commands, which act on STATE in place (41_round_transforms.md). -/

namespace Sys2Proof.Machine

/-- A function on a Block applied to STATE. -/
def transformState (f : Block → Block) (s : State) : State := s.setStateReg (f s.stateReg)

/-- SUBB (R120). -/
def execSubb (s : State) : Result := .next (transformState subBytes s)

/-- ISUBB (R121). -/
def execIsubb (s : State) : Result := .next (transformState invSubBytes s)

/-- SHROW (R122). -/
def execShrow (s : State) : Result := .next (transformState shiftRows s)

/-- ISHROW (R123). -/
def execIshrow (s : State) : Result := .next (transformState invShiftRows s)

/-- MIXCOL (R124). -/
def execMixcol (s : State) : Result := .next (transformState mixColumns s)

/-- IMIXCOL (R125). -/
def execImixcol (s : State) : Result := .next (transformState invMixColumns s)

/-- ARK (R126): ROUND > 10 raises ROUND_RANGE before any key is expanded (R83, R195); otherwise the round keys are ensured and
round key ROUND is added to STATE. -/
def execArk (round : BitVec 4) (s : State) : Result :=
  if h : round.toNat ≤ 10 then
    let t := ensureRoundKeys s
    .next (transformState (fun b => addRoundKey b (t.rk[round.toNat]'(by omega))) t)
  else .next (raiseEngineError .roundRange s)

end Sys2Proof.Machine
end

