-- ==== Sys2Proof/Machine/BlockCore.lean ====
section
/-! DEFINITION. The single-block commands on STATE (43_block_core.md). -/

namespace Sys2Proof.Machine

/-- A function on a Block and the round keys applied to STATE, the round keys ensured first (R153, R154). -/
def cipherState (f : Block → RoundKeys → Block) (s : State) : State :=
  let t := ensureRoundKeys s
  transformState (fun b => f b t.rk) t

/-- ENCBLK (R153). -/
def execEncblk (s : State) : Result := .next (cipherState cipher s)

/-- DECBLK (R154). -/
def execDecblk (s : State) : Result := .next (cipherState invCipher s)

end Sys2Proof.Machine
end

