-- ==== Sys2Proof/Machine/Control.lean ====
section
/-! DEFINITION. Engine control: the one command that transforms nothing (45_engine_control.md). -/

namespace Sys2Proof.Machine

/-- NOP (R180): nothing. The engine step only clears BUSY. -/
def execNop (s : State) : Result := .next s

end Sys2Proof.Machine
end

