-- ==== Sys2Proof/Machine/Gf.lean ====
section
/-! DEFINITION. The GF(2^8) multiplier's command (40_gf_multiplier.md). -/

namespace Sys2Proof.Machine

/-- GFMUL (R102): `GFRES <- multiply(A, B)`. It needs no round keys. -/
def execGfmul (a b : Byte) (s : State) : Result := .next (s.setGfres (multiply a b))

end Sys2Proof.Machine
end

