-- ==== Sys2Proof/Machine/Keys.lean ====
section
/-! DEFINITION. The key schedule's command (42_key_schedule.md). -/

namespace Sys2Proof.Machine

/-- KEYEXP (R146): expand KEY into RK now, even when RKV is already 1. -/
def execKeyexp (s : State) : Result := .next (expandKey s)

end Sys2Proof.Machine
end

