-- ==== Sys2Proof/Machine/Modes.lean ====
section
/-! DEFINITION. The mode compositor: one block of ECB, CBC or CTR per command (44_modes.md). -/

namespace Sys2Proof.Machine

/-- A full-block mode command: NBYTES ≠ 16 raises LENGTH and changes nothing else; otherwise the round keys are ensured and the
command has its effect (R83, R160). -/
def fullBlockMode (nbytes : BitVec 5) (effect : State → State) (s : State) : State :=
  checked (fullBlock nbytes) .length (fun s => effect (ensureRoundKeys s)) s

/-- `DOUT <- Cipher(DIN, RK)` (R161). -/
def ecbEncrypt (s : State) : State := s.setDout (cipher s.din s.rk)

/-- `DOUT <- InvCipher(DIN, RK)` (R162). -/
def ecbDecrypt (s : State) : State := s.setDout (invCipher s.din s.rk)

/-- DOUT and CHAIN take `Cipher(DIN ^ CHAIN, RK)` (R163). -/
def cbcEncrypt (s : State) : State :=
  let c := cipher (s.din.xor s.chain) s.rk
  (s.setDout c).setChain c

/-- DOUT takes `InvCipher(DIN, RK) ^ CHAIN` with the old CHAIN, and CHAIN takes DIN (R164). -/
def cbcDecrypt (s : State) : State :=
  let c := s.din
  let p := (invCipher c s.rk).xor s.chain
  (s.setDout p).setChain c

/-- DOUT takes DIN XOR the keystream block on the first `n` bytes and zero above (R167), and CTR advances by 1, wrapping at 2^64
(R168). -/
def ctrXor (n : Nat) (s : State) : State :=
  let ks := cipher (ctrBlock s.params.ctrOrder s.nonce s.ctr) s.rk
  (s.setDout (ctrOutput n s.din ks)).setCtr (s.ctr + 1)

/-- ECBENC (R161). -/
def execEcbenc (nbytes : BitVec 5) (s : State) : Result := .next (fullBlockMode nbytes ecbEncrypt s)

/-- ECBDEC (R162). -/
def execEcbdec (nbytes : BitVec 5) (s : State) : Result := .next (fullBlockMode nbytes ecbDecrypt s)

/-- CBCENC (R163). -/
def execCbcenc (nbytes : BitVec 5) (s : State) : Result := .next (fullBlockMode nbytes cbcEncrypt s)

/-- CBCDEC (R164). -/
def execCbcdec (nbytes : BitVec 5) (s : State) : Result := .next (fullBlockMode nbytes cbcDecrypt s)

/-- CTRXOR (R167): NBYTES = 0 or NBYTES > 16 raises LENGTH and CTR does not advance. -/
def execCtrxor (nbytes : BitVec 5) (s : State) : Result :=
  .next (checked (ctrLength nbytes) .length (fun s => ctrXor nbytes.toNat (ensureRoundKeys s)) s)

end Sys2Proof.Machine
end

