-- ==== Sys2Proof/Machine/Dispatch.lean ====
section
/-! DEFINITION. One arm per command: the second half of `Execute` (R83), from the operand checks on. -/

namespace Sys2Proof.Machine

def exec (i : Instr) (s : State) : Host.Outcome State Fault Refusal :=
  match i with
  | .nop => Sys2Proof.Machine.execNop s
  | .keyexp => Sys2Proof.Machine.execKeyexp s
  | .subb => Sys2Proof.Machine.execSubb s
  | .isubb => Sys2Proof.Machine.execIsubb s
  | .shrow => Sys2Proof.Machine.execShrow s
  | .ishrow => Sys2Proof.Machine.execIshrow s
  | .mixcol => Sys2Proof.Machine.execMixcol s
  | .imixcol => Sys2Proof.Machine.execImixcol s
  | .ark round => Sys2Proof.Machine.execArk round s
  | .encblk => Sys2Proof.Machine.execEncblk s
  | .decblk => Sys2Proof.Machine.execDecblk s
  | .ecbenc nbytes => Sys2Proof.Machine.execEcbenc nbytes s
  | .ecbdec nbytes => Sys2Proof.Machine.execEcbdec nbytes s
  | .cbcenc nbytes => Sys2Proof.Machine.execCbcenc nbytes s
  | .cbcdec nbytes => Sys2Proof.Machine.execCbcdec nbytes s
  | .ctrxor nbytes => Sys2Proof.Machine.execCtrxor nbytes s
  | .gfmul a b => Sys2Proof.Machine.execGfmul a b s

end Sys2Proof.Machine
end

