-- ==== Sys2Proof/WellFormed.lean ====
section
/-! DEFINITION. Which operand values are legal. A command that is not well formed still has an encoding and a meaning: its
meaning raises ROUND_RANGE or LENGTH (R195, R196). -/

namespace Sys2Proof

/-- The legal operand values: ROUND in 0..10 (R73), NBYTES = 16 for ECB and CBC and 1..16 for CTR (R74), any A and B
(R75). -/
def Instr.wellFormed : Instr → Bool
  | .nop => true
  | .keyexp => true
  | .subb => true
  | .isubb => true
  | .shrow => true
  | .ishrow => true
  | .mixcol => true
  | .imixcol => true
  | .ark round => round.toNat ≤ 10
  | .encblk => true
  | .decblk => true
  | .ecbenc nbytes => nbytes == 16
  | .ecbdec nbytes => nbytes == 16
  | .cbcenc nbytes => nbytes == 16
  | .cbcdec nbytes => nbytes == 16
  | .ctrxor nbytes => 1 ≤ nbytes.toNat && nbytes.toNat ≤ 16
  | .gfmul _ _ => true

end Sys2Proof
end

