-- ==== Sys2Proof/Decode.lean ====
section
/-! DEFINITION. The four formats, the opcode map, the decoder of a command word, and the encoder after it. -/

namespace Sys2Proof

/-- The four formats of R72. -/
inductive Format where
  /-- No operand. -/
  | n
  /-- ROUND = bits [3:0]. -/
  | r
  /-- NBYTES = bits [4:0]. -/
  | m
  /-- A = bits [15:8], B = bits [7:0]. -/
  | g
deriving DecidableEq, Repr

/-- A 1 at OPC and at every reserved bit of the format, a 0 at each operand-field bit (R72, R77). -/
def Format.mask : Format → Word
  | .n => 0xFFFFFFFF#32
  | .r => 0xFFFFFFF0#32
  | .m => 0xFFFFFFE0#32
  | .g => 0xFFFF0000#32

/-- Field OPC: bits [31:24] of every command (R71). -/
def opcField (w : Word) : Byte := w.extractLsb' 24 8

/-- Field ROUND: bits [3:0] (R73). -/
def roundField (w : Word) : BitVec 4 := w.extractLsb' 0 4

/-- Field NBYTES: bits [4:0] (R74). -/
def nbytesField (w : Word) : BitVec 5 := w.extractLsb' 0 5

/-- Field A: bits [15:8] (R75). -/
def aField (w : Word) : Byte := w.extractLsb' 8 8

/-- Field B: bits [7:0] (R75). -/
def bField (w : Word) : Byte := w.extractLsb' 0 8

/-- A row of the opcode map (R78), with the command it stands for. -/
structure Row where
  mnemonic : String
  opc : Byte
  format : Format
  /-- The command, its operand fields read from the word. -/
  build : Word → Instr

/-- `match` of R77: OPC in bits [31:24] and every other bit 0. -/
def Row.pattern (row : Row) : Word := row.opc ++ 0#24

/-- `mask` of R77. -/
def Row.mask (row : Row) : Word := row.format.mask

/-- The 0x0x group of R78: control and key schedule. -/
def controlRows : List Row :=
  [⟨"nop", 0x00, .n, fun _ => .nop⟩,
   ⟨"keyexp", 0x01, .n, fun _ => .keyexp⟩]

/-- The 0x1x group of R78: round transforms and block core. -/
def roundRows : List Row :=
  [⟨"subb", 0x10, .n, fun _ => .subb⟩,
   ⟨"isubb", 0x11, .n, fun _ => .isubb⟩,
   ⟨"shrow", 0x12, .n, fun _ => .shrow⟩,
   ⟨"ishrow", 0x13, .n, fun _ => .ishrow⟩,
   ⟨"mixcol", 0x14, .n, fun _ => .mixcol⟩,
   ⟨"imixcol", 0x15, .n, fun _ => .imixcol⟩,
   ⟨"ark", 0x16, .r, fun w => .ark (roundField w)⟩,
   ⟨"encblk", 0x18, .n, fun _ => .encblk⟩,
   ⟨"decblk", 0x19, .n, fun _ => .decblk⟩]

/-- The 0x2x group of R78: chaining modes. -/
def modeRows : List Row :=
  [⟨"ecbenc", 0x20, .m, fun w => .ecbenc (nbytesField w)⟩,
   ⟨"ecbdec", 0x21, .m, fun w => .ecbdec (nbytesField w)⟩,
   ⟨"cbcenc", 0x22, .m, fun w => .cbcenc (nbytesField w)⟩,
   ⟨"cbcdec", 0x23, .m, fun w => .cbcdec (nbytesField w)⟩,
   ⟨"ctrxor", 0x24, .m, fun w => .ctrxor (nbytesField w)⟩]

/-- The 0x3x group of R78: finite-field arithmetic. -/
def fieldRows : List Row :=
  [⟨"gfmul", 0x30, .g, fun w => .gfmul (aField w) (bField w)⟩]

/-- The opcode map (R78): exactly 17 rows. -/
def opcodeMap : List Row := controlRows ++ roundRows ++ modeRows ++ fieldRows

/-- The row that OPC alone selects (R71), none for one of the 239 illegal opcodes (R79). -/
def opcodeRow? (opc : Byte) : Option Row := opcodeMap.find? fun row => row.opc == opc

/-- Why a word is no command. -/
inductive DecodeError where
  /-- OPC is not in the opcode map (R79). -/
  | illegalOpcode
  /-- OPC is in the map and a reserved bit of its format is 1 (R80). -/
  | reservedNonzero
deriving DecidableEq, Repr

/-- The decoder, the first two checks of `Execute` (R83): total on every word, rejecting by name. -/
def decode (w : Word) : Except DecodeError Instr :=
  match opcodeRow? (opcField w) with
  | none => .error .illegalOpcode
  | some row => if w &&& row.mask = row.pattern then .ok (row.build w) else .error .reservedNonzero

/-- OPC of each command (R78). -/
def Instr.opc : Instr → Byte
  | .nop => 0x00
  | .keyexp => 0x01
  | .subb => 0x10
  | .isubb => 0x11
  | .shrow => 0x12
  | .ishrow => 0x13
  | .mixcol => 0x14
  | .imixcol => 0x15
  | .ark _ => 0x16
  | .encblk => 0x18
  | .decblk => 0x19
  | .ecbenc _ => 0x20
  | .ecbdec _ => 0x21
  | .cbcenc _ => 0x22
  | .cbcdec _ => 0x23
  | .ctrxor _ => 0x24
  | .gfmul _ _ => 0x30

/-- Bits [23:0] of each command, its fields placed as in R72 and every reserved bit 0. -/
def Instr.fields : Instr → BitVec 24
  | .nop => 0
  | .keyexp => 0
  | .subb => 0
  | .isubb => 0
  | .shrow => 0
  | .ishrow => 0
  | .mixcol => 0
  | .imixcol => 0
  | .ark round => 0#20 ++ round
  | .encblk => 0
  | .decblk => 0
  | .ecbenc nbytes => 0#19 ++ nbytes
  | .ecbdec nbytes => 0#19 ++ nbytes
  | .cbcenc nbytes => 0#19 ++ nbytes
  | .cbcdec nbytes => 0#19 ++ nbytes
  | .ctrxor nbytes => 0#19 ++ nbytes
  | .gfmul a b => 0#8 ++ a ++ b

/-- The encoder: `word = (OPC << 24) | fields` (R85). -/
def encode (i : Instr) : Word := i.opc ++ i.fields

/-- What the decoder reads from an instruction of `nbits` bits whose bits are `w`, every bit above them 0. A command is one
32-bit word whose bit 0 is its least significant bit (R9, R70), which is also the opcode table's numbering. -/
def decodeTableWord (nbits w : Nat) : Option Instr :=
  match decode (BitVec.ofNat 32 (w % 2 ^ nbits)) with
  | .ok i => some i
  | .error _ => none

end Sys2Proof
end

