-- ==== Sys2Proof/Machine/Bus.lean ====
section
/-! DEFINITION. Host accesses of the register window: the write sets (R84), reads (R67) and writes (R66), bus errors (R53), and the
reset event (R220). -/

namespace Sys2Proof.Machine

/-- A word of RK. -/
def isRkw : WinReg → Bool
  | .rkw _ => true
  | _ => false

/-- A word of STATE. -/
def isStateReg : WinReg → Bool
  | .stateReg _ => true
  | _ => false

/-- A word of DOUT. -/
def isDout : WinReg → Bool
  | .dout _ => true
  | _ => false

/-- A word of CHAIN. -/
def isChain : WinReg → Bool
  | .chain _ => true
  | _ => false

/-- CTRHI or CTRLO. -/
def isCtr : WinReg → Bool
  | .ctrHi => true
  | .ctrLo => true
  | _ => false

/-- GFRES. -/
def isGfres : WinReg → Bool
  | .gfres => true
  | _ => false

/-- The rows of R84's table, a command each; "+RK" is added only when RKV = 0. -/
def commandWrites (i : Instr) (rkv : Bool) (r : WinReg) : Bool :=
  match i with
  | .nop => false
  | .keyexp => isRkw r
  | .subb => isStateReg r
  | .isubb => isStateReg r
  | .shrow => isStateReg r
  | .ishrow => isStateReg r
  | .mixcol => isStateReg r
  | .imixcol => isStateReg r
  | .ark _ => isStateReg r || (!rkv && isRkw r)
  | .encblk => isStateReg r || (!rkv && isRkw r)
  | .decblk => isStateReg r || (!rkv && isRkw r)
  | .ecbenc _ => isDout r || (!rkv && isRkw r)
  | .ecbdec _ => isDout r || (!rkv && isRkw r)
  | .cbcenc _ => isDout r || isChain r || (!rkv && isRkw r)
  | .cbcdec _ => isDout r || isChain r || (!rkv && isRkw r)
  | .ctrxor _ => isDout r || isCtr r || (!rkv && isRkw r)
  | .gfmul _ _ => isGfres r

/-- `WriteSet(cmd, RKV)`, taken from the OPC alone, even when the command will fail a check (R84). -/
def writeSet (cmd : Word) (rkv : Bool) (r : WinReg) : Bool :=
  match opcodeRow? (opcField cmd) with
  | none => false
  | some row => commandWrites (row.build cmd) rkv r

/-- The exact contents of a window word (R51, R55 to R58). -/
def regWord (r : WinReg) (s : State) : Word :=
  match r with
  | .cmd => 0
  | .status => statusWord s
  | .errcode => errcodeWord s
  | .gfres => 0#24 ++ s.gfres
  | .key k => (s.key.word k).toWord
  | .stateReg k => (s.stateReg.word k).toWord
  | .din k => (s.din.word k).toWord
  | .dout k => (s.dout.word k).toWord
  | .chain k => (s.chain.word k).toWord
  | .nonce k => (s.nonce.word k).toWord
  | .ctrHi => Sys2Proof.ctrHi s.ctr
  | .ctrLo => Sys2Proof.ctrLo s.ctr
  | .rkw i => (scheduleWord s.rk i).toWord
  | .reserved => 0

/-- `MemRead(off, 4)` at an aligned offset (R67): the word's exact contents, or a fresh free value if a command is pending that
may write it. -/
def memRead (off : BitVec 9) (s : State) : Word × State :=
  let r := windowReg off
  if s.busy && writeSet s.pending s.rkv r then (Config.draw s.draws, s.setDraws (s.draws + 1))
  else (regWord r s, s)

/-- A host write to a writable data register: dropped and recorded while BUSY = 1, otherwise the state `t` that the write
gives (R66, R198). -/
def dataWrite (t s : State) : State := if s.busy then recordError .writeWhileBusy s else t

/-- A host write to CMD: the word is latched, or dropped and recorded while BUSY = 1 (R33, R66, R197). -/
def cmdWrite (v : Word) (s : State) : State :=
  if s.busy then recordError .cmdWhileBusy s else (s.setPending v).setBusy true

/-- `MemWrite(off, 4, v)` at an aligned offset (R66). -/
def memWrite (off : BitVec 9) (v : Word) (s : State) : State :=
  match windowReg off with
  | .cmd => cmdWrite v s
  | .errcode => clearError s
  | .key k => dataWrite ((s.setKey (s.key.setWord k (.ofWord v))).setRkv false) s
  | .stateReg k => dataWrite (s.setStateReg (s.stateReg.setWord k (.ofWord v))) s
  | .din k => dataWrite (s.setDin (s.din.setWord k (.ofWord v))) s
  | .chain k => dataWrite (s.setChain (s.chain.setWord k (.ofWord v))) s
  | .nonce k => dataWrite (s.setNonce (s.nonce.setWord k (.ofWord v))) s
  | .ctrHi => dataWrite (s.setCtr (setCtrHi s.ctr v)) s
  | .ctrLo => dataWrite (s.setCtr (setCtrLo s.ctr v)) s
  | .status => s
  | .gfres => s
  | .dout _ => s
  | .rkw _ => s
  | .reserved => s

/-- An access that the engine admits, at window offset `off`: a read is seen by the host. -/
def admittedAccess (off : BitVec 9) (a : Access) (s : State) : State :=
  match a with
  | .read _ _ => see (.value (memRead off s).1) (memRead off s).2
  | .write _ _ v => memWrite off v s

/-- A host access (R50, R52, R53): outside the window it does not reach the engine; misaligned or of another size it gets a bus
error that changes no engine state, and the host sees BUSERR_RESPONSE (log 7). -/
def hostAccess (a : Access) (s : State) : Result :=
  match windowOffset? s.params.base a.addr with
  | none => .fault (.outsideWindow a.addr)
  | some off => .next (if admitted off a.size then admittedAccess off a s else see .busErrResponse s)

/-- The reset event (R220, R222): every register takes its reset value and a pending command is discarded; the accesses attempted
while reset is asserted are unanswered. The parameters, the events still to come, the host's own record and the count of
free values are no registers of the engine and stay. -/
def resetEvent (unanswered : Nat) (s : State) : State :=
  { State.reset with
    params := s.params
    inputs := s.inputs
    seen := s.seen ++ List.replicate unanswered .busErrResponse
    draws := s.draws }

end Sys2Proof.Machine
end

