-- ==== Sys2Proof/Machine/Engine.lean ====
section
/-! DEFINITION. The engine step (R83) and the machine's step over the order of events (R61). The meaning of a command is an argument
here, so that this file stands before the dispatch of the commands; Machine/Step.lean gives it `exec`. -/

namespace Sys2Proof.Machine

/-- The error that a word which is no command raises (R193, R194). -/
def decodeErrCode : DecodeError → ErrCode
  | .illegalOpcode => .illegalOpcode
  | .reservedNonzero => .reservedNonzero

/-- `Execute(cmd)` (R83): decoding, then the command. -/
def executeWord (run : Instr → State → Result) (cmd : Word) (s : State) : Result :=
  match decode cmd with
  | .error e => .next (raiseEngineError (decodeErrCode e) s)
  | .ok i => run i s

/-- `EngineStep` (R83): execute PENDING, then BUSY <- 0. PENDING keeps its word, which means nothing while BUSY = 0 (log 5). -/
def engineStep (run : Instr → State → Result) (s : State) : Result :=
  onNext (executeWord run s.pending s) finish

/-- The engine's turn: its step is enabled if and only if BUSY = 1 (R83); an idle engine does nothing (R209). -/
def engineTurn (run : Instr → State → Result) (s : State) : Result :=
  if s.busy then engineStep run s else .next s

/-- One event of the order. -/
def runEvent (run : Instr → State → Result) (e : Event) (s : State) : Result :=
  match e with
  | .access a => hostAccess a s
  | .engine => engineTurn run s
  | .reset unanswered => .next (resetEvent unanswered s)

/-- The machine's step: the next event, or, when none is to come, the engine's turn, so that a pending command is always executed
after finitely many host steps (R231; log 4). -/
def machineStep (run : Instr → State → Result) (s : State) : Result :=
  match s.inputs with
  | [] => engineTurn run s
  | e :: rest => runEvent run e (s.setInputs rest)

/-- The command word `w` accepted into PENDING, BUSY set (R33), and the engine given the next turn. -/
def latchCommand (w : Word) (s : State) : State :=
  ((s.setPending w).setBusy true).setInputs (.engine :: s.inputs)

end Sys2Proof.Machine
end

