-- ==== Sys2Proof/Machine/Step.lean ====
section
/-! DEFINITION. One step of the machine. -/

namespace Sys2Proof.Machine

/-- One step: the next event of the total order (R61, R68), with every command's meaning (R83). -/
def step (s : State) : Host.Outcome State Fault Refusal := machineStep exec s

/-- The command of `nbits` bits `w`, every bit above them 0, accepted into PENDING so that the next step is the engine step that
executes it. The engine fetches nothing (R54): a command comes from the data of a CMD write (log 5). -/
def State.withFetchWord (s : State) (nbits w : Nat) : State :=
  latchCommand (BitVec.ofNat 32 (w % 2 ^ nbits)) s

end Sys2Proof.Machine
end

