-- ==== Sys2Proof/Machine/Assembler.lean ====
section
/-! DEFINITION. The assembler's lines, the pseudo-instructions and the host program notation (R85 to R87). They are no hardware
(D33); they say which command words and host accesses a written program stands for. A line is given as its mnemonic and its
operands' numbers, not as text (log 15). -/

namespace Sys2Proof.Machine

/-- A line of R85, its operands as the numbers written. -/
inductive AsmLine where
  | nop
  | keyexp
  | subb
  | isubb
  | shrow
  | ishrow
  | mixcol
  | imixcol
  | ark (round : Nat)
  | encblk
  | decblk
  | ecbenc (nbytes : Nat)
  | ecbdec (nbytes : Nat)
  | cbcenc (nbytes : Nat)
  | cbcdec (nbytes : Nat)
  | ctrxor (nbytes : Nat)
  | gfmul (a b : Nat)
  /-- `.word <n>`: a raw command word. -/
  | word (n : Nat)
deriving DecidableEq, Repr

/-- The command of an operand that must fit a field of `width` bits; the assembler refuses a value that does not fit. -/
def fitField (width v : Nat) (i : Instr) : Option Word := if v < 2 ^ width then some (encode i) else none

/-- The word of a line, or none where the assembler refuses it (R85). -/
def assemble : AsmLine → Option Word
  | .nop => some (encode .nop)
  | .keyexp => some (encode .keyexp)
  | .subb => some (encode .subb)
  | .isubb => some (encode .isubb)
  | .shrow => some (encode .shrow)
  | .ishrow => some (encode .ishrow)
  | .mixcol => some (encode .mixcol)
  | .imixcol => some (encode .imixcol)
  | .ark round => fitField 4 round (.ark (.ofNat 4 round))
  | .encblk => some (encode .encblk)
  | .decblk => some (encode .decblk)
  | .ecbenc nbytes => fitField 5 nbytes (.ecbenc (.ofNat 5 nbytes))
  | .ecbdec nbytes => fitField 5 nbytes (.ecbdec (.ofNat 5 nbytes))
  | .cbcenc nbytes => fitField 5 nbytes (.cbcenc (.ofNat 5 nbytes))
  | .cbcdec nbytes => fitField 5 nbytes (.cbcdec (.ofNat 5 nbytes))
  | .ctrxor nbytes => fitField 5 nbytes (.ctrxor (.ofNat 5 nbytes))
  | .gfmul a b => if a < 2 ^ 8 then fitField 8 b (.gfmul (.ofNat 8 a) (.ofNat 8 b)) else none
  | .word n => if n < 2 ^ 32 then some (.ofNat 32 n) else none

/-- Whether the assembler warns of a line it assembles: a command whose operand fits its field and is out of range (R85). -/
def warns (l : AsmLine) : Bool :=
  match l, assemble l with
  | .word _, _ => false
  | _, none => false
  | _, some w =>
    match decode w with
    | .ok i => !i.wellFormed
    | .error _ => false

/-- The pseudo-instructions of R86. -/
inductive Pseudo where
  | ecbenc
  | ecbdec
  | cbcenc
  | cbcdec
  | ctrxor
  | xtime (a : Nat)
  | encround (r : Nat)
  | encfinal
  | decround (r : Nat)
  | decfinal
deriving DecidableEq, Repr

/-- The commands a pseudo-instruction expands to, or none where the assembler refuses it (R86). -/
def Pseudo.expand : Pseudo → Option (List AsmLine)
  | .ecbenc => some [.ecbenc 16]
  | .ecbdec => some [.ecbdec 16]
  | .cbcenc => some [.cbcenc 16]
  | .cbcdec => some [.cbcdec 16]
  | .ctrxor => some [.ctrxor 16]
  | .xtime a => some [.gfmul a 0x02]
  | .encround r => if 1 ≤ r ∧ r ≤ 9 then some [.subb, .shrow, .mixcol, .ark r] else none
  | .encfinal => some [.subb, .shrow, .ark 10]
  | .decround r => if 1 ≤ r ∧ r ≤ 9 then some [.ishrow, .isubb, .ark r, .imixcol] else none
  | .decfinal => some [.ishrow, .isubb, .ark 0]

/-- The forms of the host program notation (R87); offsets are window offsets. -/
inductive HostForm where
  | sw (off : Nat) (v : Word)
  | lw (off : Nat)
  | cmd (w : Word)
  /-- `wait`, at the end of its polling: the engine has taken its step and STATUS is read. -/
  | wait
  | wblk (off : Nat) (b : Block)
  | rblk (off : Nat)
deriving DecidableEq, Repr

/-- `sw <off>, <v>` for a window at `base`. -/
def storeEvent (base off : Nat) (v : Word) : Event := .access (.write (base + off) 4 v)

/-- `lw <off>` for a window at `base`. -/
def loadEvent (base off : Nat) : Event := .access (.read (base + off) 4)

/-- The events a form stands for (R87). -/
def HostForm.events (base : Nat) : HostForm → List Event
  | .sw off v => [storeEvent base off v]
  | .lw off => [loadEvent base off]
  | .cmd w => [storeEvent base 0x000 w]
  | .wait => [.engine, loadEvent base 0x004]
  | .wblk off b =>
    [storeEvent base off b.c0.toWord, storeEvent base (off + 4) b.c1.toWord,
     storeEvent base (off + 8) b.c2.toWord, storeEvent base (off + 12) b.c3.toWord]
  | .rblk off => [loadEvent base off, loadEvent base (off + 4), loadEvent base (off + 8), loadEvent base (off + 12)]

end Sys2Proof.Machine
end

