-- ==== Sys2Proof/Safety.lean ====
section
/-! DEFINITION. The terms claims are stated in: the invariant, the event that comes next, the spec's own tables of opcodes, reserved
bits and errors written over a command word's fields, and the execution of several commands or blocks. -/

namespace Sys2Proof.Machine

/-! ### Invariant -/

/-- R23: RKV = 1 implies RK = KeyExpansion(KEY). -/
def keysCurrent (s : State) : Prop := s.rkv = true → s.rk = keyExpansion s.key

/-- The invariant that every step keeps: the round keys are current (R23) and BASE is aligned to 0x200 (R8). -/
def Inv (s : State) : Prop := keysCurrent s ∧ s.params.wf = true

/-- The state after the host has loaded KEY: RKV is cleared (R20). -/
def withKey (k : Block) (s : State) : State := (s.setKey k).setRkv false

/-! ### What comes next -/

/-- The next step is the engine's (a command is pending and it is the engine's turn), with `rest` still to come after it. -/
def engineNext (s : State) (rest : List Event) : Prop :=
  s.busy = true ∧ (s.inputs = .engine :: rest ∨ (s.inputs = [] ∧ rest = []))

/-- The next step executes the command `i`. -/
def commandNext (s : State) (i : Instr) : Prop :=
  (∃ rest, engineNext s rest) ∧ decode s.pending = .ok i

/-- The next event is a reset. -/
def resetNext (s : State) : Prop := ∃ unanswered rest, s.inputs = .reset unanswered :: rest

/-- The next event is an admitted host write to the window register `r`. -/
def writeNext (s : State) (r : WinReg) : Prop :=
  ∃ addr v rest off, s.inputs = .access (.write addr 4 v) :: rest ∧
    windowOffset? s.params.base addr = some off ∧ off.toNat % 4 = 0 ∧ windowReg off = r

/-- The next event is an admitted host read of the window register `r`. -/
def readNext (s : State) (r : WinReg) : Prop :=
  ∃ addr rest off, s.inputs = .access (.read addr 4) :: rest ∧
    windowOffset? s.params.base addr = some off ∧ off.toNat % 4 = 0 ∧ windowReg off = r

/-- An event that reaches the engine or needs no window. -/
def inWindow (base : Nat) : Event → Bool
  | .access a => (windowOffset? base a.addr).isSome
  | .engine => true
  | .reset _ => true

/-- Every access still to come is to the engine's window, so that no step stops (R50). -/
def safeSchedule (s : State) : Bool := s.inputs.all (inWindow s.params.base)

/-! ### The command word's fields, as the spec's tables give them -/

/-- The 239 unassigned OPC values (R79). -/
def unassignedOpc (opc : Nat) : Bool :=
  (0x02 ≤ opc && opc ≤ 0x0F) || opc == 0x17 || (0x1A ≤ opc && opc ≤ 0x1F) || (0x25 ≤ opc && opc ≤ 0x2F) ||
    (0x31 ≤ opc && opc ≤ 0xFF)

/-- The number of operand bits, which are the low bits of the word, for an assigned OPC: 4 for ARK, 5 for the mode commands, 16
for GFMUL and none for the others (R72). Bits from here up to bit 23 are reserved. -/
def operandBits (opc : Nat) : Nat :=
  if opc = 0x16 then 4 else if 0x20 ≤ opc ∧ opc ≤ 0x24 then 5 else if opc = 0x30 then 16 else 0

/-- Some reserved bit of the word is 1: a bit of [23:0] above the operand bits (R72, R80). -/
def reservedBitSet (w : Word) : Prop :=
  ∃ j, operandBits (opcField w).toNat ≤ j ∧ j < 24 ∧ w.getLsbD j = true

/-- The error that executing a word raises, if any, in the priority order of R200, read from the word's fields. -/
def raises (w : Word) (e : ErrCode) : Prop :=
  let opc := (opcField w).toNat
  (unassignedOpc opc = true ∧ e = .illegalOpcode) ∨
  (unassignedOpc opc = false ∧ reservedBitSet w ∧ e = .reservedNonzero) ∨
  (unassignedOpc opc = false ∧ ¬reservedBitSet w ∧ opc = 0x16 ∧ (roundField w).toNat > 10 ∧ e = .roundRange) ∨
  (unassignedOpc opc = false ∧ ¬reservedBitSet w ∧ 0x20 ≤ opc ∧ opc ≤ 0x23 ∧ (nbytesField w).toNat ≠ 16 ∧ e = .length) ∨
  (unassignedOpc opc = false ∧ ¬reservedBitSet w ∧ opc = 0x24 ∧
    ((nbytesField w).toNat = 0 ∨ (nbytesField w).toNat > 16) ∧ e = .length)

/-- A word whose OPC is `opc` and which has a 1 in bits [23:lo] raises RESERVED_NONZERO and has no other effect. -/
def reservedRaises (opc : Byte) (lo : Nat) : Prop :=
  ∀ (w : Word) (s : State), opcField w = opc → (∃ j, lo ≤ j ∧ j < 24 ∧ w.getLsbD j = true) →
    executeWord exec w s = .next (recordError .reservedNonzero s)

/-- `UsesRoundKeys` (R83). -/
def usesRoundKeys : Instr → Bool
  | .nop => false
  | .keyexp => false
  | .subb => false
  | .isubb => false
  | .shrow => false
  | .ishrow => false
  | .mixcol => false
  | .imixcol => false
  | .ark _ => true
  | .encblk => true
  | .decblk => true
  | .ecbenc _ => true
  | .ecbdec _ => true
  | .cbcenc _ => true
  | .cbcdec _ => true
  | .ctrxor _ => true
  | .gfmul _ _ => false

/-- The four full-block mode commands with a given NBYTES. -/
def fullBlockCommands (nbytes : BitVec 5) : List Instr :=
  [.ecbenc nbytes, .ecbdec nbytes, .cbcenc nbytes, .cbcdec nbytes]

/-- The five mode commands with a given NBYTES (R160). -/
def modeCommands (nbytes : BitVec 5) : List Instr := fullBlockCommands nbytes ++ [.ctrxor nbytes]

/-! ### Several commands, several blocks -/

/-- Commands executed one after the other. -/
def execAll : List Instr → State → Result
  | [], s => .next s
  | i :: rest, s =>
    match exec i s with
    | .next t => execAll rest t
    | .fault e => .fault e
    | .refused e => .refused e

/-- `encround r` as commands (R86). -/
def encroundCommands (r : Nat) : List Instr := [.subb, .shrow, .mixcol, .ark (.ofNat 4 r)]

/-- `decround r` as commands (R86). -/
def decroundCommands (r : Nat) : List Instr := [.ishrow, .isubb, .ark (.ofNat 4 r), .imixcol]

/-- `ark 0; encround 1; …; encround 9; encfinal` (R153). -/
def encryptByRounds : List Instr :=
  [.ark 0] ++ [1, 2, 3, 4, 5, 6, 7, 8, 9].flatMap encroundCommands ++ [.subb, .shrow, .ark 10]

/-- `ark 10; decround 9; …; decround 1; decfinal` (R154). -/
def decryptByRounds : List Instr :=
  [.ark 10] ++ [9, 8, 7, 6, 5, 4, 3, 2, 1].flatMap decroundCommands ++ [.ishrow, .isubb, .ark 0]

/-- The blocks of a message in order: each is loaded into DIN, the command runs, and its DOUT is appended (R170 to R172). -/
def execBlocks (i : Instr) : List Block → State → Option (List Block × State)
  | [], s => some ([], s)
  | b :: rest, s =>
    match exec i (s.setDin b) with
    | .next t =>
      match execBlocks i rest t with
      | some (out, u) => some (t.dout :: out, u)
      | none => none
    | .fault _ => none
    | .refused _ => none

/-- The source's CBC encryption of a message: `C_i := encryptBlock(P_i XOR chain, K)`, `chain := C_i` (R163, R171). -/
def cbcMessage (rk : RoundKeys) : Block → List Block → List Block
  | _, [] => []
  | chain, p :: rest => cipher (p.xor chain) rk :: cbcMessage rk (cipher (p.xor chain) rk) rest

/-- The source's CTR encryption of whole blocks: block i is XORed with the keystream block of `counter_i` (R165, R172). -/
def ctrMessage (order : CtrOrder) (nonce : Nonce) (rk : RoundKeys) : BitVec 64 → List Block → List Block
  | _, [] => []
  | ctr, p :: rest => p.xor (cipher (ctrBlock order nonce ctr) rk) :: ctrMessage order nonce rk (ctr + 1) rest

/-! ### Carry-less arithmetic -/

/-- The carry-less product of a polynomial `a` with the polynomial of the low `n` bits of `b`: the XOR of `a << i` over the set
bits i (R100). -/
def carrylessProduct (a b : Nat) : Nat → Nat
  | 0 => 0
  | n + 1 => carrylessProduct a b n ^^^ (if b.testBit n then a <<< n else 0)

/-- `rotl8(v, n)` of R112, n in 1..4. -/
def rotl8 (v : Byte) (n : Nat) : Byte := (v <<< n) ||| (v >>> (8 - n))

end Sys2Proof.Machine
end

