-- ==== Sys2Proof/Certificates/Slice0/Obligations.lean ====
section
/-! DEFINITION. The statements for the provers. Each docstring names the rules of spec/ it formalises. -/

open Sys2Proof Sys2Proof.Machine

/-! ## Encoding (30_encoding.md) -/

/-- R78: the 17 rows of the opcode map, with OPC, mnemonic, format, match and mask, and the command each match word is. -/
def Obligations.OpcodeMapHasTheSeventeenRows : Prop :=
  opcodeMap.map (fun row => (row.opc, row.mnemonic, row.format, row.pattern, row.mask)) =
    [(0x00#8, "nop", .n, 0x00000000#32, 0xFFFFFFFF#32), (0x01#8, "keyexp", .n, 0x01000000#32, 0xFFFFFFFF#32),
     (0x10#8, "subb", .n, 0x10000000#32, 0xFFFFFFFF#32), (0x11#8, "isubb", .n, 0x11000000#32, 0xFFFFFFFF#32),
     (0x12#8, "shrow", .n, 0x12000000#32, 0xFFFFFFFF#32), (0x13#8, "ishrow", .n, 0x13000000#32, 0xFFFFFFFF#32),
     (0x14#8, "mixcol", .n, 0x14000000#32, 0xFFFFFFFF#32), (0x15#8, "imixcol", .n, 0x15000000#32, 0xFFFFFFFF#32),
     (0x16#8, "ark", .r, 0x16000000#32, 0xFFFFFFF0#32), (0x18#8, "encblk", .n, 0x18000000#32, 0xFFFFFFFF#32),
     (0x19#8, "decblk", .n, 0x19000000#32, 0xFFFFFFFF#32), (0x20#8, "ecbenc", .m, 0x20000000#32, 0xFFFFFFE0#32),
     (0x21#8, "ecbdec", .m, 0x21000000#32, 0xFFFFFFE0#32), (0x22#8, "cbcenc", .m, 0x22000000#32, 0xFFFFFFE0#32),
     (0x23#8, "cbcdec", .m, 0x23000000#32, 0xFFFFFFE0#32), (0x24#8, "ctrxor", .m, 0x24000000#32, 0xFFFFFFE0#32),
     (0x30#8, "gfmul", .g, 0x30000000#32, 0xFFFF0000#32)] ∧
  opcodeMap.map (fun row => decode row.pattern) =
    [.ok .nop, .ok .keyexp, .ok .subb, .ok .isubb, .ok .shrow, .ok .ishrow, .ok .mixcol, .ok .imixcol, .ok (.ark 0),
     .ok .encblk, .ok .decblk, .ok (.ecbenc 0), .ok (.ecbdec 0), .ok (.cbcenc 0), .ok (.cbcdec 0), .ok (.ctrxor 0),
     .ok (.gfmul 0 0)]

/-- Sanity: words written out in R78's table, R85's examples and 95_test_vectors.md decode to the commands they are said to be. -/
def Obligations.ExampleWordsDecode : Prop :=
  decode 0x1600000A#32 = .ok (.ark 10) ∧ decode 0x30005783#32 = .ok (.gfmul 0x57 0x83) ∧
  decode 0x20000010#32 = .ok (.ecbenc 16) ∧ decode 0x24000005#32 = .ok (.ctrxor 5) ∧
  decode 0x01000000#32 = .ok .keyexp ∧ decode 0x18000000#32 = .ok .encblk ∧ decode 0x12000000#32 = .ok .shrow ∧
  decode 0x00000000#32 = .ok .nop

/-- Headline: decoding the encoding of any command gives it back, with every operand value its field admits (R72 to R78, R85). -/
def Obligations.DecodeOfEncode : Prop := ∀ i : Instr, decode (encode i) = .ok i

/-- A word that decodes is the encoding of what it decodes to: no bit of a legal command is dropped (R72, R80). -/
def Obligations.EncodeOfDecode : Prop := ∀ (w : Word) (i : Instr), decode w = .ok i → encode i = w

/-- R77: what match and mask are, that a word selects a command exactly if `word & mask = match`, and that a word which has the OPC
and fails the mask has a nonzero reserved bit. -/
def Obligations.MatchAndMaskSelect : Prop :=
  ∀ row ∈ opcodeMap,
    row.pattern.toNat = row.opc.toNat * 2 ^ 24 ∧
    (∀ j, row.mask.getLsbD j = true ↔ operandBits row.opc.toNat ≤ j ∧ j < 32) ∧
    (∀ w : Word, w &&& row.mask = row.pattern ↔ decode w = .ok (row.build w)) ∧
    (∀ w : Word, opcField w = row.opc → w &&& row.mask ≠ row.pattern → reservedBitSet w)

/-- R79: the 239 unassigned OPC values are illegal, and executing such a word raises ILLEGAL_OPCODE whatever its other bits hold. -/
def Obligations.IllegalOpcodesRaise : Prop :=
  (∀ w : Word, decode w = .error .illegalOpcode ↔ unassignedOpc (opcField w).toNat = true) ∧
  (List.range 256).countP unassignedOpc = 239 ∧
  (∀ (s : State) (rest : List Event), engineNext s rest → unassignedOpc (opcField s.pending).toNat = true →
    step s = .next ((recordError .illegalOpcode (s.setInputs rest)).setBusy false))

/-- R80: a legal OPC with a reserved bit set raises RESERVED_NONZERO and does not execute; the rule's example is SUBB with bit 0. -/
def Obligations.ReservedBitsRaise : Prop :=
  (∀ w : Word, decode w = .error .reservedNonzero ↔ unassignedOpc (opcField w).toNat = false ∧ reservedBitSet w) ∧
  (∀ (s : State) (rest : List Event), engineNext s rest → unassignedOpc (opcField s.pending).toNat = false →
    reservedBitSet s.pending → step s = .next ((recordError .reservedNonzero (s.setInputs rest)).setBusy false)) ∧
  decode 0x10000001#32 = .error .reservedNonzero

/-- R81: NOP is the word 0 and the only command with no effect other than clearing BUSY; OPC 0x00 with any other bit set is no NOP
and raises RESERVED_NONZERO. -/
def Obligations.OnlyNopHasNoEffect : Prop :=
  decode 0x00000000#32 = .ok .nop ∧
  (∀ i : Instr, (∀ s : State, exec i s = .next s) ↔ i = .nop) ∧
  (∀ w : Word, opcField w = 0x00 → w ≠ 0x00000000#32 → decode w = .error .reservedNonzero)

/-- R200: a word with several faults raises only the first that applies, in the order ILLEGAL_OPCODE, RESERVED_NONZERO, ROUND_RANGE or
LENGTH; a word with none executes a well-formed command; a host access is a step of its own, without an engine step; an error already
kept is not replaced. -/
def Obligations.ErrorPriority : Prop :=
  (∀ (w : Word) (e e' : ErrCode), raises w e → raises w e' → e = e') ∧
  (∀ (w : Word) (e : ErrCode) (s : State), raises w e → executeWord exec w s = .next (recordError e s)) ∧
  (∀ w : Word, (∀ e, ¬raises w e) → ∃ i, decode w = .ok i ∧ i.wellFormed = true) ∧
  raises 0x17000000#32 .illegalOpcode ∧ raises 0x1600001B#32 .reservedNonzero ∧ raises 0x1600000B#32 .roundRange ∧
  (∀ (s : State) (a : Access) (rest : List Event), s.inputs = .access a :: rest → step s = hostAccess a (s.setInputs rest)) ∧
  (∀ (e e' : ErrCode) (s : State), e ≠ .none → recordError e' (recordError e s) = recordError e s)

/-- The assembler's words, refusals and warnings (R85) and the ten pseudo-instructions (R86), for every line. Each word is `(OPC << 24) | fields`,
written as a number; a value that does not fit its field is refused; a value that fits and is out of range is assembled with a warning, and
executing its word raises ROUND_RANGE or LENGTH; no other line is warned of. Lines and pseudo-instructions are given as data, not as text:
that is the model's choice, and the refusal of `.word n` for an n that no 32-bit word holds its reading of R85 (log 15). -/
def Obligations.AssemblerLinesAndPseudoInstructions : Prop :=
  -- R85: the words, and the values that are refused
  [AsmLine.nop, .keyexp, .subb, .isubb, .shrow, .ishrow, .mixcol, .imixcol, .encblk, .decblk].map assemble =
    [some 0x00000000#32, some 0x01000000#32, some 0x10000000#32, some 0x11000000#32, some 0x12000000#32, some 0x13000000#32,
     some 0x14000000#32, some 0x15000000#32, some 0x18000000#32, some 0x19000000#32] ∧
  (∀ r, assemble (.ark r) = if r ≤ 15 then some (.ofNat 32 (0x16 * 2 ^ 24 + r)) else none) ∧
  (∀ n, assemble (.ecbenc n) = if n ≤ 31 then some (.ofNat 32 (0x20 * 2 ^ 24 + n)) else none) ∧
  (∀ n, assemble (.ecbdec n) = if n ≤ 31 then some (.ofNat 32 (0x21 * 2 ^ 24 + n)) else none) ∧
  (∀ n, assemble (.cbcenc n) = if n ≤ 31 then some (.ofNat 32 (0x22 * 2 ^ 24 + n)) else none) ∧
  (∀ n, assemble (.cbcdec n) = if n ≤ 31 then some (.ofNat 32 (0x23 * 2 ^ 24 + n)) else none) ∧
  (∀ n, assemble (.ctrxor n) = if n ≤ 31 then some (.ofNat 32 (0x24 * 2 ^ 24 + n)) else none) ∧
  (∀ a b, assemble (.gfmul a b) =
    if a ≤ 255 ∧ b ≤ 255 then some (.ofNat 32 (0x30 * 2 ^ 24 + a * 2 ^ 8 + b)) else none) ∧
  (∀ n, assemble (.word n) = if n < 2 ^ 32 then some (.ofNat 32 n) else none) ∧
  assemble (.ark 10) = some 0x1600000A#32 ∧ assemble (.gfmul 0x57 0x83) = some 0x30005783#32 ∧
  assemble (.ecbenc 16) = some 0x20000010#32 ∧ assemble (.ctrxor 5) = some 0x24000005#32 ∧
  -- R85: the lines that are warned of, and what their execution raises
  (∀ l : AsmLine, warns l = true ↔
    (∃ r, l = .ark r ∧ 11 ≤ r ∧ r ≤ 15) ∨
    (∃ n, (l = .ecbenc n ∨ l = .ecbdec n ∨ l = .cbcenc n ∨ l = .cbcdec n) ∧ n ≤ 31 ∧ n ≠ 16) ∨
    (∃ n, l = .ctrxor n ∧ (n = 0 ∨ (17 ≤ n ∧ n ≤ 31)))) ∧
  (∀ (l : AsmLine) (s : State), warns l = true → ∃ w, assemble l = some w ∧
    executeWord exec w s = .next (recordError (if opcField w = 0x16 then .roundRange else .length) s)) ∧
  -- R86: the ten pseudo-instructions
  Pseudo.expand .ecbenc = some [.ecbenc 16] ∧ Pseudo.expand .ecbdec = some [.ecbdec 16] ∧
  Pseudo.expand .cbcenc = some [.cbcenc 16] ∧ Pseudo.expand .cbcdec = some [.cbcdec 16] ∧
  Pseudo.expand .ctrxor = some [.ctrxor 16] ∧ (∀ a, Pseudo.expand (.xtime a) = some [.gfmul a 0x02]) ∧
  (∀ r, Pseudo.expand (.encround r) = if 1 ≤ r ∧ r ≤ 9 then some [.subb, .shrow, .mixcol, .ark r] else none) ∧
  (∀ r, Pseudo.expand (.decround r) = if 1 ≤ r ∧ r ≤ 9 then some [.ishrow, .isubb, .ark r, .imixcol] else none) ∧
  Pseudo.expand .encfinal = some [.subb, .shrow, .ark 10] ∧ Pseudo.expand .decfinal = some [.ishrow, .isubb, .ark 0] ∧
  (∀ r, 1 ≤ r → r ≤ 9 →
    (∃ ls, Pseudo.expand (.encround r) = some ls ∧ ls.map assemble = (encroundCommands r).map (fun i => some (encode i))) ∧
    (∃ ls, Pseudo.expand (.decround r) = some ls ∧ ls.map assemble = (decroundCommands r).map (fun i => some (encode i))))

/-! ## The step and the machine -/

/-- When the engine's step comes next and PENDING decodes to a command, the step is the command's meaning at that state, after which BUSY
is cleared (R83); what the step adds around `exec` is taking the turn off the schedule and clearing BUSY. -/
def Obligations.StepRunsDecodedCommand : Prop :=
  ∀ (s : State) (rest : List Event) (i : Instr), engineNext s rest → decode s.pending = .ok i →
    step s = onNext (exec i (s.setInputs rest)) (fun t => t.setBusy false)

/-- The step takes the next event: a host access, or the engine's turn, which does nothing while BUSY = 0 (R83, R209); with nothing to
come an idle engine stays as it is. The form of the schedule is the model's (log 4). -/
def Obligations.StepTakesTheNextEvent : Prop :=
  (∀ (s : State) (a : Access) (rest : List Event), s.inputs = .access a :: rest → step s = hostAccess a (s.setInputs rest)) ∧
  (∀ (s : State) (rest : List Event), s.inputs = .engine :: rest → s.busy = false → step s = .next (s.setInputs rest)) ∧
  (∀ s : State, s.inputs = [] → s.busy = false → step s = .next s) ∧
  step State.reset = .next State.reset

/-- A schedule that stays in the window runs to its end and leaves the engine idle. Where the schedule has no reset, a pending command is
executed after finitely many host steps: the run comes to the engine's step with the command's word, and with everything the command can read
or write but ERRCODE, as they were (R83, R231; a reset discards the command, R222). The form of the schedule is log 4's choice. -/
def Obligations.PendingCommandCompletes : Prop :=
  (∀ s : State, safeSchedule s = true →
    ∃ t, core.run (s.inputs.length + 1) s = .next t ∧ t.busy = false ∧ t.inputs = []) ∧
  (∀ s : State, safeSchedule s = true → s.busy = true → (∀ n, Event.reset n ∉ s.inputs) →
    ∃ (n : Nat) (u : State) (rest : List Event), n ≤ s.inputs.length ∧ core.run n s = .next u ∧ engineNext u rest ∧
      u = (((s.setErrcode u.errcode).setInputs u.inputs).setSeen u.seen).setDraws u.draws ∧
      step u = onNext (executeWord exec s.pending (u.setInputs rest)) (fun t => t.setBusy false))

/-- Headline: every step keeps the invariant that RKV = 1 implies RK = KeyExpansion(KEY) (R23) and that BASE stays aligned (R8). -/
def Obligations.StepKeepsInvariant : Prop := ∀ s t : State, Inv s → step s = .next t → Inv t

/-- The invariant holds after reset (R23, R38; the value of BASE is log 1's). -/
def Obligations.ResetMeetsInvariant : Prop := Inv State.reset

/-- R38: after reset every register holds the value of the table, and the zero RK is never used: until KEY is expanded (RKV = 0), a well-formed
command that uses round keys answers what it answers with RK = KeyExpansion(KEY), whatever RK holds, and leaves that RK with RKV = 1. -/
def Obligations.ResetRegisterValues : Prop :=
  (∀ i, State.reset.key.byte i = 0x00) ∧ (∀ (r : Fin 11) (i : Fin 16), State.reset.rk[r].byte i = 0x00) ∧
  State.reset.rkv = false ∧ (∀ i, State.reset.stateReg.byte i = 0x00) ∧ (∀ i, State.reset.din.byte i = 0x00) ∧
  (∀ i, State.reset.dout.byte i = 0x00) ∧ (∀ i, State.reset.chain.byte i = 0x00) ∧
  (∀ j, State.reset.nonce.byte j = 0x00) ∧ State.reset.ctr = 0 ∧ State.reset.gfres = 0x00 ∧
  State.reset.errcode.code = 0 ∧ State.reset.busy = false ∧ State.reset.pending = 0x00000000 ∧
  (∀ s : State, execAll [.ark 0] (withKey s.key State.reset) = .next (((State.reset.setKey s.key).setRk
    (keyExpansion s.key)).setRkv true |>.setStateReg s.key)) ∧
  (∀ (i : Instr) (s : State), i.wellFormed = true → usesRoundKeys i = true → s.rkv = false →
    ∃ t, exec i s = .next t ∧ exec i ((s.setRk (keyExpansion s.key)).setRkv true) = .next t ∧
      t.rkv = true ∧ t.rk = keyExpansion s.key)

/-- A reset event, whether or not a command is pending, leaves every register at its reset value and discards the command (R220, R222);
accesses attempted meanwhile are unanswered. One atomic event is log 9's choice, after I17; that it keeps the count of free values and the
host's record is the choice of logs 3 and 6. -/
def Obligations.ResetEventRestoresAndDiscards : Prop :=
  ∀ (s : State) (n : Nat) (rest : List Event), s.inputs = .reset n :: rest →
    ∃ t, step s = .next t ∧ (∀ r, regWord r t = 0) ∧ t.busy = false ∧ t.rkv = false ∧ t.errcode = .none ∧ t.pending = 0 ∧
      t.params = s.params ∧ t.inputs = rest ∧ t.seen = s.seen ++ List.replicate n .busErrResponse ∧ t.draws = s.draws

/-- R39: who writes each register. In any step, a register changes only by reset, by an accepted host write of it, or by one of the commands
of its row. -/
def Obligations.WritersOfEachRegister : Prop :=
  ∀ s t : State, step s = .next t →
    (t.key ≠ s.key → resetNext s ∨ (s.busy = false ∧ ∃ k, writeNext s (.key k))) ∧
    (t.rk ≠ s.rk → resetNext s ∨ commandNext s .keyexp ∨ (s.rkv = false ∧ ∃ i, usesRoundKeys i = true ∧ commandNext s i)) ∧
    (t.rkv ≠ s.rkv → resetNext s ∨ (s.busy = false ∧ ∃ k, writeNext s (.key k)) ∨ commandNext s .keyexp ∨
      (s.rkv = false ∧ ∃ i, usesRoundKeys i = true ∧ commandNext s i)) ∧
    (t.stateReg ≠ s.stateReg → resetNext s ∨ (s.busy = false ∧ ∃ k, writeNext s (.stateReg k)) ∨
      ∃ i, i ∈ [.subb, .isubb, .shrow, .ishrow, .mixcol, .imixcol, .encblk, .decblk] ++
        (List.range 11).map (fun r => Instr.ark (.ofNat 4 r)) ∧ commandNext s i) ∧
    (t.din ≠ s.din → resetNext s ∨ (s.busy = false ∧ ∃ k, writeNext s (.din k))) ∧
    (t.dout ≠ s.dout → resetNext s ∨ ∃ n, ∃ i ∈ modeCommands n, commandNext s i) ∧
    (t.chain ≠ s.chain → resetNext s ∨ (s.busy = false ∧ ∃ k, writeNext s (.chain k)) ∨
      commandNext s (.cbcenc 16) ∨ commandNext s (.cbcdec 16)) ∧
    (t.nonce ≠ s.nonce → resetNext s ∨ (s.busy = false ∧ ∃ k, writeNext s (.nonce k))) ∧
    (t.ctr ≠ s.ctr → resetNext s ∨ (s.busy = false ∧ (writeNext s .ctrHi ∨ writeNext s .ctrLo)) ∨
      ∃ n, commandNext s (.ctrxor n)) ∧
    (t.gfres ≠ s.gfres → resetNext s ∨ ∃ a b, commandNext s (.gfmul a b)) ∧
    (t.errcode ≠ s.errcode → resetNext s ∨ writeNext s .errcode ∨ (∃ rest e, engineNext s rest ∧ raises s.pending e) ∨
      (s.busy = true ∧ s.errcode = .none ∧ ∃ r, writeNext s r)) ∧
    (t.pending ≠ s.pending → resetNext s ∨ (s.busy = false ∧ writeNext s .cmd)) ∧
    (t.busy ≠ s.busy → resetNext s ∨ (s.busy = false ∧ writeNext s .cmd) ∨ ∃ rest, engineNext s rest)

/-! ## GF(2^8) multiplier (40_gf_multiplier.md) -/

/-- R102: GFMUL. The result, its frame, the encoding, the error, the corner cases and the example. -/
def Obligations.GfmulCommand : Prop :=
  (∀ a b : Byte, (encode (.gfmul a b)).toNat = 0x30000000 + a.toNat * 2 ^ 8 + b.toNat) ∧
  (∀ (a b : Byte) (s : State), exec (.gfmul a b) s = .next (s.setGfres (multiply a b))) ∧
  reservedRaises 0x30 16 ∧
  (∀ a : Byte, multiply a 0x00 = 0x00 ∧ multiply 0x00 a = 0x00 ∧ multiply 0x01 a = a) ∧
  multiply 0xFF 0xFF = 0x13 ∧ multiply 0x80 0x02 = 0x1B ∧ multiply 0x57 0x83 = 0xC1 ∧
  decode 0x30005783#32 = .ok (.gfmul 0x57 0x83)

/-- The laws of `multiply`, which R101 marks as the spec's own inference ("[derived: from rule R100]"). -/
def Obligations.MultiplyLaws : Prop :=
  (∀ a b : Byte, multiply a b = multiply b a) ∧
  (∀ a : Byte, multiply a 0x01 = a) ∧
  (∀ a : Byte, multiply a 0x00 = 0x00) ∧
  (∀ a b c : Byte, multiply a (b ^^^ c) = multiply a b ^^^ multiply a c) ∧
  (∀ a : Byte, multiply a 0x02 = (a <<< 1) ^^^ (if a.getLsbD 7 then 0x1B else 0x00)) ∧
  (∀ a : Byte, a ≠ 0x00 → ∃ b, multiply a b = 0x01 ∧ ∀ b', multiply a b' = 0x01 → b' = b) ∧
  multiply 0x53 0xCA = 0x01

/-- The sentence of R100 that says what `multiply` is: the carry-less product of a and b, reduced modulo x^8+x^4+x^3+x+1. The product
differs from the result by a multiple of 0x11B. -/
def Obligations.MultiplyIsTheReducedCarrylessProduct : Prop :=
  ∀ a b : Byte, ∃ q : Nat, q < 2 ^ 7 ∧
    carrylessProduct a.toNat b.toNat 8 = (multiply a b).toNat ^^^ carrylessProduct 0x11B q 7

/-! ## Round transforms (41_round_transforms.md) -/

/-- The 256 entries of both tables, that S is a permutation with no fixed point, and that IS is its inverse. The spec supplies the tables
"[from general knowledge, not in source]" (R110, R111; log 11). -/
def Obligations.SubstitutionTables : Prop :=
  (List.range 256).map (fun n => sbox (.ofNat 8 n)) =
    [0x63#8, 0x7c#8, 0x77#8, 0x7b#8, 0xf2#8, 0x6b#8, 0x6f#8, 0xc5#8, 0x30#8, 0x01#8, 0x67#8, 0x2b#8, 0xfe#8, 0xd7#8, 0xab#8, 0x76#8] ++
    [0xca#8, 0x82#8, 0xc9#8, 0x7d#8, 0xfa#8, 0x59#8, 0x47#8, 0xf0#8, 0xad#8, 0xd4#8, 0xa2#8, 0xaf#8, 0x9c#8, 0xa4#8, 0x72#8, 0xc0#8] ++
    [0xb7#8, 0xfd#8, 0x93#8, 0x26#8, 0x36#8, 0x3f#8, 0xf7#8, 0xcc#8, 0x34#8, 0xa5#8, 0xe5#8, 0xf1#8, 0x71#8, 0xd8#8, 0x31#8, 0x15#8] ++
    [0x04#8, 0xc7#8, 0x23#8, 0xc3#8, 0x18#8, 0x96#8, 0x05#8, 0x9a#8, 0x07#8, 0x12#8, 0x80#8, 0xe2#8, 0xeb#8, 0x27#8, 0xb2#8, 0x75#8] ++
    [0x09#8, 0x83#8, 0x2c#8, 0x1a#8, 0x1b#8, 0x6e#8, 0x5a#8, 0xa0#8, 0x52#8, 0x3b#8, 0xd6#8, 0xb3#8, 0x29#8, 0xe3#8, 0x2f#8, 0x84#8] ++
    [0x53#8, 0xd1#8, 0x00#8, 0xed#8, 0x20#8, 0xfc#8, 0xb1#8, 0x5b#8, 0x6a#8, 0xcb#8, 0xbe#8, 0x39#8, 0x4a#8, 0x4c#8, 0x58#8, 0xcf#8] ++
    [0xd0#8, 0xef#8, 0xaa#8, 0xfb#8, 0x43#8, 0x4d#8, 0x33#8, 0x85#8, 0x45#8, 0xf9#8, 0x02#8, 0x7f#8, 0x50#8, 0x3c#8, 0x9f#8, 0xa8#8] ++
    [0x51#8, 0xa3#8, 0x40#8, 0x8f#8, 0x92#8, 0x9d#8, 0x38#8, 0xf5#8, 0xbc#8, 0xb6#8, 0xda#8, 0x21#8, 0x10#8, 0xff#8, 0xf3#8, 0xd2#8] ++
    [0xcd#8, 0x0c#8, 0x13#8, 0xec#8, 0x5f#8, 0x97#8, 0x44#8, 0x17#8, 0xc4#8, 0xa7#8, 0x7e#8, 0x3d#8, 0x64#8, 0x5d#8, 0x19#8, 0x73#8] ++
    [0x60#8, 0x81#8, 0x4f#8, 0xdc#8, 0x22#8, 0x2a#8, 0x90#8, 0x88#8, 0x46#8, 0xee#8, 0xb8#8, 0x14#8, 0xde#8, 0x5e#8, 0x0b#8, 0xdb#8] ++
    [0xe0#8, 0x32#8, 0x3a#8, 0x0a#8, 0x49#8, 0x06#8, 0x24#8, 0x5c#8, 0xc2#8, 0xd3#8, 0xac#8, 0x62#8, 0x91#8, 0x95#8, 0xe4#8, 0x79#8] ++
    [0xe7#8, 0xc8#8, 0x37#8, 0x6d#8, 0x8d#8, 0xd5#8, 0x4e#8, 0xa9#8, 0x6c#8, 0x56#8, 0xf4#8, 0xea#8, 0x65#8, 0x7a#8, 0xae#8, 0x08#8] ++
    [0xba#8, 0x78#8, 0x25#8, 0x2e#8, 0x1c#8, 0xa6#8, 0xb4#8, 0xc6#8, 0xe8#8, 0xdd#8, 0x74#8, 0x1f#8, 0x4b#8, 0xbd#8, 0x8b#8, 0x8a#8] ++
    [0x70#8, 0x3e#8, 0xb5#8, 0x66#8, 0x48#8, 0x03#8, 0xf6#8, 0x0e#8, 0x61#8, 0x35#8, 0x57#8, 0xb9#8, 0x86#8, 0xc1#8, 0x1d#8, 0x9e#8] ++
    [0xe1#8, 0xf8#8, 0x98#8, 0x11#8, 0x69#8, 0xd9#8, 0x8e#8, 0x94#8, 0x9b#8, 0x1e#8, 0x87#8, 0xe9#8, 0xce#8, 0x55#8, 0x28#8, 0xdf#8] ++
    [0x8c#8, 0xa1#8, 0x89#8, 0x0d#8, 0xbf#8, 0xe6#8, 0x42#8, 0x68#8, 0x41#8, 0x99#8, 0x2d#8, 0x0f#8, 0xb0#8, 0x54#8, 0xbb#8, 0x16#8] ∧
  (List.range 256).map (fun n => invSbox (.ofNat 8 n)) =
    [0x52#8, 0x09#8, 0x6a#8, 0xd5#8, 0x30#8, 0x36#8, 0xa5#8, 0x38#8, 0xbf#8, 0x40#8, 0xa3#8, 0x9e#8, 0x81#8, 0xf3#8, 0xd7#8, 0xfb#8] ++
    [0x7c#8, 0xe3#8, 0x39#8, 0x82#8, 0x9b#8, 0x2f#8, 0xff#8, 0x87#8, 0x34#8, 0x8e#8, 0x43#8, 0x44#8, 0xc4#8, 0xde#8, 0xe9#8, 0xcb#8] ++
    [0x54#8, 0x7b#8, 0x94#8, 0x32#8, 0xa6#8, 0xc2#8, 0x23#8, 0x3d#8, 0xee#8, 0x4c#8, 0x95#8, 0x0b#8, 0x42#8, 0xfa#8, 0xc3#8, 0x4e#8] ++
    [0x08#8, 0x2e#8, 0xa1#8, 0x66#8, 0x28#8, 0xd9#8, 0x24#8, 0xb2#8, 0x76#8, 0x5b#8, 0xa2#8, 0x49#8, 0x6d#8, 0x8b#8, 0xd1#8, 0x25#8] ++
    [0x72#8, 0xf8#8, 0xf6#8, 0x64#8, 0x86#8, 0x68#8, 0x98#8, 0x16#8, 0xd4#8, 0xa4#8, 0x5c#8, 0xcc#8, 0x5d#8, 0x65#8, 0xb6#8, 0x92#8] ++
    [0x6c#8, 0x70#8, 0x48#8, 0x50#8, 0xfd#8, 0xed#8, 0xb9#8, 0xda#8, 0x5e#8, 0x15#8, 0x46#8, 0x57#8, 0xa7#8, 0x8d#8, 0x9d#8, 0x84#8] ++
    [0x90#8, 0xd8#8, 0xab#8, 0x00#8, 0x8c#8, 0xbc#8, 0xd3#8, 0x0a#8, 0xf7#8, 0xe4#8, 0x58#8, 0x05#8, 0xb8#8, 0xb3#8, 0x45#8, 0x06#8] ++
    [0xd0#8, 0x2c#8, 0x1e#8, 0x8f#8, 0xca#8, 0x3f#8, 0x0f#8, 0x02#8, 0xc1#8, 0xaf#8, 0xbd#8, 0x03#8, 0x01#8, 0x13#8, 0x8a#8, 0x6b#8] ++
    [0x3a#8, 0x91#8, 0x11#8, 0x41#8, 0x4f#8, 0x67#8, 0xdc#8, 0xea#8, 0x97#8, 0xf2#8, 0xcf#8, 0xce#8, 0xf0#8, 0xb4#8, 0xe6#8, 0x73#8] ++
    [0x96#8, 0xac#8, 0x74#8, 0x22#8, 0xe7#8, 0xad#8, 0x35#8, 0x85#8, 0xe2#8, 0xf9#8, 0x37#8, 0xe8#8, 0x1c#8, 0x75#8, 0xdf#8, 0x6e#8] ++
    [0x47#8, 0xf1#8, 0x1a#8, 0x71#8, 0x1d#8, 0x29#8, 0xc5#8, 0x89#8, 0x6f#8, 0xb7#8, 0x62#8, 0x0e#8, 0xaa#8, 0x18#8, 0xbe#8, 0x1b#8] ++
    [0xfc#8, 0x56#8, 0x3e#8, 0x4b#8, 0xc6#8, 0xd2#8, 0x79#8, 0x20#8, 0x9a#8, 0xdb#8, 0xc0#8, 0xfe#8, 0x78#8, 0xcd#8, 0x5a#8, 0xf4#8] ++
    [0x1f#8, 0xdd#8, 0xa8#8, 0x33#8, 0x88#8, 0x07#8, 0xc7#8, 0x31#8, 0xb1#8, 0x12#8, 0x10#8, 0x59#8, 0x27#8, 0x80#8, 0xec#8, 0x5f#8] ++
    [0x60#8, 0x51#8, 0x7f#8, 0xa9#8, 0x19#8, 0xb5#8, 0x4a#8, 0x0d#8, 0x2d#8, 0xe5#8, 0x7a#8, 0x9f#8, 0x93#8, 0xc9#8, 0x9c#8, 0xef#8] ++
    [0xa0#8, 0xe0#8, 0x3b#8, 0x4d#8, 0xae#8, 0x2a#8, 0xf5#8, 0xb0#8, 0xc8#8, 0xeb#8, 0xbb#8, 0x3c#8, 0x83#8, 0x53#8, 0x99#8, 0x61#8] ++
    [0x17#8, 0x2b#8, 0x04#8, 0x7e#8, 0xba#8, 0x77#8, 0xd6#8, 0x26#8, 0xe1#8, 0x69#8, 0x14#8, 0x63#8, 0x55#8, 0x21#8, 0x0c#8, 0x7d#8] ∧
  sbox 0x53 = 0xed ∧ invSbox 0xed = 0x53 ∧
  (∀ y : Byte, ∃ x, sbox x = y ∧ ∀ x', sbox x' = y → x' = x) ∧ (∀ x : Byte, sbox x ≠ x) ∧
  (∀ x : Byte, invSbox (sbox x) = x ∧ sbox (invSbox x) = x)

/-- The S-box is the affine map, with constant 0x63, of the multiplicative inverse (0x00 for 0x00): R112's cross-check of the table, which
the spec marks "[from general knowledge, not in source]" (log 11). -/
def Obligations.SboxIsAffineOfInverse : Prop :=
  ∀ x b : Byte, (if x = 0x00 then b = 0x00 else multiply x b = 0x01) →
    sbox x = b ^^^ rotl8 b 1 ^^^ rotl8 b 2 ^^^ rotl8 b 3 ^^^ rotl8 b 4 ^^^ 0x63

/-- R113, R114, R115, R116, R119: the byte formulas of the substitutions, the row rotations (with their listed permutations) and the
round-key addition. That InvShiftRows undoes ShiftRows is the spec's own inference (R116's sentence marked "[derived: from rule R115 and this
rule]"). -/
def Obligations.TransformByteFormulas : Prop :=
  (∀ (s : Block) (i : Fin 16), (subBytes s).byte i = sbox (s.byte i)) ∧
  (∀ (s : Block) (i : Fin 16), (invSubBytes s).byte i = invSbox (s.byte i)) ∧
  (∀ (s : Block) (r c : Fin 4), (shiftRows s).byte ⟨4 * c.val + r.val, by omega⟩ =
    s.byte ⟨4 * ((c.val + r.val) % 4) + r.val, by omega⟩) ∧
  (∀ s : Block, shiftRows s = Block.ofBytes fun i =>
    s.byte (([0, 5, 10, 15, 4, 9, 14, 3, 8, 13, 2, 7, 12, 1, 6, 11] : List (Fin 16)).getD i.val 0)) ∧
  (∀ (s : Block) (r c : Fin 4), (invShiftRows s).byte ⟨4 * c.val + r.val, by omega⟩ =
    s.byte ⟨4 * ((c.val + 4 - r.val) % 4) + r.val, by omega⟩) ∧
  (∀ s : Block, invShiftRows s = Block.ofBytes fun i =>
    s.byte (([0, 13, 10, 7, 4, 1, 14, 11, 8, 5, 2, 15, 12, 9, 6, 3] : List (Fin 16)).getD i.val 0)) ∧
  (∀ s : Block, invShiftRows (shiftRows s) = s) ∧
  (∀ (s k : Block) (i : Fin 16), (addRoundKey s k).byte i = s.byte i ^^^ k.byte i) ∧
  (∀ s k : Block, addRoundKey (addRoundKey s k) k = s)

/-- The two matrices, whose row r is row 0 rotated right by r (the spec's own reading of "cyclic constants", R117, R118; log 11), the column
formulas, and that IM is the inverse of M. -/
def Obligations.ColumnMixingFormulas : Prop :=
  mixMatrix.word 0 = ⟨0x02, 0x03, 0x01, 0x01⟩ ∧ invMixMatrix.word 0 = ⟨0x0e, 0x0b, 0x0d, 0x09⟩ ∧
  (∀ r j : Fin 4, (mixMatrix.word r).byte j = (mixMatrix.word 0).byte (j - r)) ∧
  (∀ r j : Fin 4, (invMixMatrix.word r).byte j = (invMixMatrix.word 0).byte (j - r)) ∧
  (∀ (s : Block) (r c : Fin 4), ((mixColumns s).word c).byte r =
    multiply ((mixMatrix.word r).byte 0) (s.byte ⟨4 * c.val, by omega⟩) ^^^
    multiply ((mixMatrix.word r).byte 1) (s.byte ⟨4 * c.val + 1, by omega⟩) ^^^
    multiply ((mixMatrix.word r).byte 2) (s.byte ⟨4 * c.val + 2, by omega⟩) ^^^
    multiply ((mixMatrix.word r).byte 3) (s.byte ⟨4 * c.val + 3, by omega⟩)) ∧
  (∀ (s : Block) (r c : Fin 4), ((invMixColumns s).word c).byte r =
    multiply ((invMixMatrix.word r).byte 0) (s.byte ⟨4 * c.val, by omega⟩) ^^^
    multiply ((invMixMatrix.word r).byte 1) (s.byte ⟨4 * c.val + 1, by omega⟩) ^^^
    multiply ((invMixMatrix.word r).byte 2) (s.byte ⟨4 * c.val + 2, by omega⟩) ^^^
    multiply ((invMixMatrix.word r).byte 3) (s.byte ⟨4 * c.val + 3, by omega⟩)) ∧
  (∀ r k : Fin 4, rowTimesColumn (invMixMatrix.word r)
      ⟨(mixMatrix.word 0).byte k, (mixMatrix.word 1).byte k, (mixMatrix.word 2).byte k, (mixMatrix.word 3).byte k⟩ =
    if r = k then 0x01 else 0x00) ∧
  (∀ s : Block, invMixColumns (mixColumns s) = s)

/-- What R127 infers from R113 to R119: the substitutions and AddRoundKey act on 16 byte lanes, the column mixings on 4 column lanes, the row rotations are fixed byte
permutations that keep every byte in its row, and each command writes the whole of STATE in one step. -/
def Obligations.LaneIndependence : Prop :=
  (∀ (s s' : Block) (i : Fin 16), s.byte i = s'.byte i →
    (subBytes s).byte i = (subBytes s').byte i ∧ (invSubBytes s).byte i = (invSubBytes s').byte i) ∧
  (∀ (s s' k k' : Block) (i : Fin 16), s.byte i = s'.byte i → k.byte i = k'.byte i →
    (addRoundKey s k).byte i = (addRoundKey s' k').byte i) ∧
  (∀ (s s' : Block) (c : Fin 4), s.word c = s'.word c →
    (mixColumns s).word c = (mixColumns s').word c ∧ (invMixColumns s).word c = (invMixColumns s').word c) ∧
  (∃ p q : Fin 16 → Fin 16, (∀ i, q (p i) = i ∧ p (q i) = i ∧ (p i).val % 4 = i.val % 4) ∧
    ∀ s : Block, (∀ i, (shiftRows s).byte i = s.byte (p i)) ∧ (∀ i, (invShiftRows s).byte i = s.byte (q i))) ∧
  (∀ i ∈ [Instr.subb, .isubb, .shrow, .ishrow, .mixcol, .imixcol], ∀ s : State,
    ∃ t, exec i s = .next t ∧ t = s.setStateReg t.stateReg) ∧
  (∀ (round : BitVec 4) (s : State), round.toNat ≤ 10 →
    ∃ t, exec (.ark round) s = .next t ∧ t = (ensureRoundKeys s).setStateReg t.stateReg)

/-- R120 and R121: SUBB and ISUBB. Encoding, effect and frame, error, corner cases and examples. -/
def Obligations.ByteSubstitutionCommands : Prop :=
  encode .subb = 0x10000000#32 ∧ encode .isubb = 0x11000000#32 ∧
  (∀ s : State, ∃ t, exec .subb s = .next t ∧ (∀ i, t.stateReg.byte i = sbox (s.stateReg.byte i)) ∧
    t = s.setStateReg t.stateReg) ∧
  (∀ s : State, ∃ t, exec .isubb s = .next t ∧ (∀ i, t.stateReg.byte i = invSbox (s.stateReg.byte i)) ∧
    t = s.setStateReg t.stateReg) ∧
  reservedRaises 0x10 0 ∧ reservedRaises 0x11 0 ∧
  (∀ s : State, exec .subb (s.setStateReg (.ofHex 0)) =
    .next (s.setStateReg (.ofHex 0x63636363636363636363636363636363))) ∧
  (∀ s : State, exec .isubb (s.setStateReg (.ofHex 0x63636363636363636363636363636363)) =
    .next (s.setStateReg (.ofHex 0))) ∧
  (∀ s : State, execAll [.subb, .isubb] s = .next s) ∧
  (∀ s : State, exec .subb (s.setStateReg (.ofHex 0x000102030405060708090a0b0c0d0e0f)) =
    .next (s.setStateReg (.ofHex 0x637c777bf26b6fc53001672bfed7ab76))) ∧
  (∀ s : State, exec .isubb (s.setStateReg (.ofHex 0x000102030405060708090a0b0c0d0e0f)) =
    .next (s.setStateReg (.ofHex 0x52096ad53036a538bf40a39e81f3d7fb)))

/-- R122 and R123: SHROW and ISHROW. Encoding, effect (from the old STATE) and frame, error, corner cases and examples. -/
def Obligations.RowRotationCommands : Prop :=
  encode .shrow = 0x12000000#32 ∧ encode .ishrow = 0x13000000#32 ∧
  (∀ s : State, ∃ t, exec .shrow s = .next t ∧ t = s.setStateReg t.stateReg ∧
    ∀ r c : Fin 4, (t.stateReg.word c).byte r = (s.stateReg.word (c + r)).byte r) ∧
  (∀ s : State, ∃ t, exec .ishrow s = .next t ∧ t = s.setStateReg t.stateReg ∧
    ∀ r c : Fin 4, (t.stateReg.word c).byte r = (s.stateReg.word (c - r)).byte r) ∧
  reservedRaises 0x12 0 ∧ reservedRaises 0x13 0 ∧
  (∀ s : State, (∀ r c c' : Fin 4, (s.stateReg.word c).byte r = (s.stateReg.word c').byte r) → exec .shrow s = .next s) ∧
  (∀ s : State, execAll [.shrow, .shrow, .shrow, .shrow] s = .next s) ∧
  (∀ s : State, execAll [.shrow, .ishrow] s = .next s) ∧
  (∀ s : State, execAll [.shrow, .shrow, .shrow] s = exec .ishrow s) ∧
  (∀ s : State, exec .shrow (s.setStateReg (.ofHex 0x000102030405060708090a0b0c0d0e0f)) =
    .next (s.setStateReg (.ofHex 0x00050a0f04090e03080d02070c01060b))) ∧
  (∀ s : State, exec .ishrow (s.setStateReg (.ofHex 0x000102030405060708090a0b0c0d0e0f)) =
    .next (s.setStateReg (.ofHex 0x000d0a0704010e0b0805020f0c090603)))

/-- R124 and R125: MIXCOL and IMIXCOL. Encoding, effect and frame, error, corner cases and examples. -/
def Obligations.ColumnMixingCommands : Prop :=
  encode .mixcol = 0x14000000#32 ∧ encode .imixcol = 0x15000000#32 ∧
  (∀ s : State, ∃ t, exec .mixcol s = .next t ∧ t = s.setStateReg t.stateReg ∧
    ∀ r c : Fin 4, (t.stateReg.word c).byte r = rowTimesColumn (mixMatrix.word r) (s.stateReg.word c)) ∧
  (∀ s : State, ∃ t, exec .imixcol s = .next t ∧ t = s.setStateReg t.stateReg ∧
    ∀ r c : Fin 4, (t.stateReg.word c).byte r = rowTimesColumn (invMixMatrix.word r) (s.stateReg.word c)) ∧
  reservedRaises 0x14 0 ∧ reservedRaises 0x15 0 ∧
  (∀ (s : State) (c : Fin 4), (∀ r : Fin 4, (s.stateReg.word c).byte r = (s.stateReg.word c).byte 0) →
    (∃ t, exec .mixcol s = .next t ∧ t.stateReg.word c = s.stateReg.word c) ∧
    (∃ t, exec .imixcol s = .next t ∧ t.stateReg.word c = s.stateReg.word c)) ∧
  (∀ s : State, exec .mixcol (s.setStateReg (.ofHex 0)) = .next (s.setStateReg (.ofHex 0))) ∧
  (∀ s : State, execAll [.mixcol, .imixcol] s = .next s) ∧
  (∀ s : State, exec .mixcol (s.setStateReg (.ofHex 0xdb135345f20a225c01010101c6c6c6c6)) =
    .next (s.setStateReg (.ofHex 0x8e4da1bc9fdc589d01010101c6c6c6c6))) ∧
  (∀ s : State, exec .imixcol (s.setStateReg (.ofHex 0x8e4da1bc9fdc589d01010101c6c6c6c6)) =
    .next (s.setStateReg (.ofHex 0xdb135345f20a225c01010101c6c6c6c6)))

/-- R126: ARK. Encoding, the range check before any expansion, effect and frame, errors, corner cases and example. -/
def Obligations.ArkCommand : Prop :=
  (∀ round : BitVec 4, (encode (.ark round)).toNat = 0x16000000 + round.toNat) ∧
  (∀ (round : BitVec 4) (s : State), round.toNat > 10 → exec (.ark round) s = .next (recordError .roundRange s)) ∧
  (∀ (round : BitVec 4) (s : State) (h : round.toNat ≤ 10), ∃ t, exec (.ark round) s = .next t ∧
    (∀ i, t.stateReg.byte i = s.stateReg.byte i ^^^ (t.rk[round.toNat]'(by omega)).byte i) ∧
    t = (ensureRoundKeys s).setStateReg t.stateReg) ∧
  reservedRaises 0x16 4 ∧
  (∀ s : State, keysCurrent s → ∃ t, exec (.ark 0) s = .next t ∧ t.stateReg = s.stateReg.xor s.key) ∧
  (∀ (round : BitVec 4) (s : State), round.toNat ≤ 10 →
    ∃ t, execAll [.ark round, .ark round] s = .next t ∧ t.stateReg = s.stateReg) ∧
  (∀ s : State, ∃ t, exec (.ark 0) ((withKey (.ofHex 0x000102030405060708090a0b0c0d0e0f) s).setStateReg
      (.ofHex 0x00112233445566778899aabbccddeeff)) = .next t ∧
    t.stateReg = .ofHex 0x00102030405060708090a0b0c0d0e0f0)

/-! ## Key schedule (42_key_schedule.md) -/

/-- The word functions (R140, R141), the ten Rcon bytes and their recurrence, and the byte that Rcon is XORed into, which is the spec's own
reading ("XORs the byte into the first byte `a0` of the word only", R142; log 11). -/
def Obligations.ScheduleWordFunctions : Prop :=
  (∀ a0 a1 a2 a3 : Byte, rotWord ⟨a0, a1, a2, a3⟩ = ⟨a1, a2, a3, a0⟩) ∧
  (∀ a0 a1 a2 a3 : Byte, subWord ⟨a0, a1, a2, a3⟩ = ⟨sbox a0, sbox a1, sbox a2, sbox a3⟩) ∧
  [rcon 1, rcon 2, rcon 3, rcon 4, rcon 5, rcon 6, rcon 7, rcon 8, rcon 9, rcon 10] =
    [0x01, 0x02, 0x04, 0x08, 0x10, 0x20, 0x40, 0x80, 0x1B, 0x36] ∧
  (∀ j, 1 ≤ j → j ≤ 9 → rcon (j + 1) = multiply (rcon j) 0x02) ∧
  (∀ (j : Nat) (a0 a1 a2 a3 : Byte), xorRcon j ⟨a0, a1, a2, a3⟩ = ⟨a0 ^^^ rcon j, a1, a2, a3⟩)

/-- R143 and R144: the recurrence of the 44 words, their grouping into the 11 round keys, and the window word of each. -/
def Obligations.KeyExpansionRecurrence : Prop :=
  (∀ K : Block,
    (∀ i : Fin 4, scheduleWord (keyExpansion K) ⟨i.val, by omega⟩ =
      ⟨K.byte ⟨4 * i.val, by omega⟩, K.byte ⟨4 * i.val + 1, by omega⟩, K.byte ⟨4 * i.val + 2, by omega⟩,
        K.byte ⟨4 * i.val + 3, by omega⟩⟩) ∧
    (∀ (i : Nat) (h : i < 44), 4 ≤ i →
      let temp := scheduleWord (keyExpansion K) ⟨i - 1, by omega⟩
      scheduleWord (keyExpansion K) ⟨i, h⟩ =
        (scheduleWord (keyExpansion K) ⟨i - 4, by omega⟩).xor
          (if i % 4 = 0 then xorRcon (i / 4) (subWord (rotWord temp)) else temp)) ∧
    (∀ (r : Fin 11) (c j : Fin 4), ((keyExpansion K)[r]).byte ⟨4 * c.val + j.val, by omega⟩ =
      (scheduleWord (keyExpansion K) ⟨4 * r.val + c.val, by omega⟩).byte j) ∧
    (keyExpansion K)[0] = K) ∧
  (∀ (s : State) (i : Fin 44), regWord (windowReg (.ofNat 9 (0x100 + 4 * i.val))) s = (scheduleWord s.rk i).toWord)

/-- R145: EnsureRoundKeys, which every command of UsesRoundKeys calls after its field checks and before its operation. -/
def Obligations.EnsureRoundKeysRule : Prop :=
  (∀ s : State, s.rkv = false → ensureRoundKeys s = (s.setRk (keyExpansion s.key)).setRkv true) ∧
  (∀ s : State, s.rkv = true → ensureRoundKeys s = s) ∧
  (∀ s : State, keysCurrent s → (ensureRoundKeys s).rk = keyExpansion s.key) ∧
  (∀ (i : Instr) (s : State), i.wellFormed = true → usesRoundKeys i = true →
    exec i s = exec i (ensureRoundKeys s) ∧ ∃ t, exec i s = .next t ∧ t.rkv = true ∧ t.rk = (ensureRoundKeys s).rk) ∧
  (∀ (i : Instr) (s : State), i.wellFormed = false → ∃ t, exec i s = .next t ∧ t.rkv = s.rkv ∧ t.rk = s.rk)

/-- R146: KEYEXP. Encoding, effect and frame, error, corner cases and example. -/
def Obligations.KeyexpCommand : Prop :=
  encode .keyexp = 0x01000000#32 ∧
  (∀ s : State, exec .keyexp s = .next ((s.setRk (keyExpansion s.key)).setRkv true)) ∧
  (∀ s : State, keysCurrent s → s.rkv = true → exec .keyexp s = .next s) ∧
  reservedRaises 0x01 0 ∧
  (∀ s : State, ∃ t, exec .keyexp (s.setKey (.ofHex 0)) = .next t ∧
    t.rk[1] = .ofHex 0x62636363626363636263636362636363) ∧
  (∀ s : State, ∃ t, exec .keyexp (s.setKey (.ofHex 0xffffffffffffffffffffffffffffffff)) = .next t ∧
    t.rk[1] = .ofHex 0xe8e9e9e917161616e8e9e9e917161616) ∧
  (∀ (i : Instr) (s : State), i.wellFormed = true → usesRoundKeys i = true → s.rkv = false →
    execAll [.keyexp, i] s = exec i s) ∧
  (∀ s : State, ∃ t, exec .keyexp (s.setKey (.ofHex 0x000102030405060708090a0b0c0d0e0f)) = .next t ∧
    regWord (.rkw 4) t = 0xd6aa74fd#32 ∧ t.rk[10] = .ofHex 0x13111d7fe3944a17f307a78b4d2b30c5)

/-! ## Block core (43_block_core.md) -/

/-- R152: Cipher and InvCipher are mutual inverses under the round keys of every key. -/
def Obligations.CipherMutualInverse : Prop :=
  ∀ K P : Block, invCipher (cipher P (keyExpansion K)) (keyExpansion K) = P ∧
    cipher (invCipher P (keyExpansion K)) (keyExpansion K) = P

/-- R153: ENCBLK. Encoding, effect and frame, error, corner cases, the equal sequence of round commands, which is the
spec's own inference (R153's sentence marked "[derived: from rule R150 …]"), and the example. -/
def Obligations.EncblkCommand : Prop :=
  encode .encblk = 0x18000000#32 ∧
  (∀ s : State, ∃ t, exec .encblk s = .next t ∧ t.stateReg = cipher s.stateReg t.rk ∧
    t = (ensureRoundKeys s).setStateReg t.stateReg ∧ t.rkv = true) ∧
  reservedRaises 0x18 0 ∧
  (∀ s : State, ∃ t, exec .encblk ((withKey (.ofHex 0) s).setStateReg (.ofHex 0)) = .next t ∧
    t.stateReg = .ofHex 0x66e94bd4ef8a2c3b884cfa59ca342b2e) ∧
  (∃ t, exec .encblk State.reset = .next t ∧ t.stateReg = .ofHex 0x66e94bd4ef8a2c3b884cfa59ca342b2e) ∧
  (∀ s : State, execAll encryptByRounds s = exec .encblk s) ∧
  (∀ s : State, ∃ t, exec .encblk ((withKey (.ofHex 0x000102030405060708090a0b0c0d0e0f) s).setStateReg
      (.ofHex 0x00112233445566778899aabbccddeeff)) = .next t ∧
    t.stateReg = .ofHex 0x69c4e0d86a7b0430d8cdb78070b4c55a)

/-- R154: DECBLK. Encoding, effect and frame, error, corner cases, the equal sequence of round commands, which is the
spec's own inference (R154's sentence marked "[derived: from rule R151 …]"), and the example. -/
def Obligations.DecblkCommand : Prop :=
  encode .decblk = 0x19000000#32 ∧
  (∀ s : State, ∃ t, exec .decblk s = .next t ∧ t.stateReg = invCipher s.stateReg t.rk ∧
    t = (ensureRoundKeys s).setStateReg t.stateReg ∧ t.rkv = true) ∧
  reservedRaises 0x19 0 ∧
  (∀ s : State, keysCurrent s → ∃ t, execAll [.encblk, .decblk] s = .next t ∧ t.stateReg = s.stateReg) ∧
  (∀ (s : State) (k : Block), ∃ t u, exec .encblk s = .next t ∧ exec .decblk (withKey k t) = .next u ∧
    u.stateReg = invCipher t.stateReg (keyExpansion k)) ∧
  (∀ s : State, execAll decryptByRounds s = exec .decblk s) ∧
  (∀ s : State, ∃ t, exec .decblk ((withKey (.ofHex 0x000102030405060708090a0b0c0d0e0f) s).setStateReg
      (.ofHex 0x69c4e0d86a7b0430d8cdb78070b4c55a)) = .next t ∧
    t.stateReg = .ofHex 0x00112233445566778899aabbccddeeff)

/-! ## Mode compositor (44_modes.md) -/

/-- R160: the mode commands ensure the round keys, never read or write STATE, write all 16 bytes of DOUT, and on an invalid NBYTES raise
LENGTH before any expansion and change nothing else. -/
def Obligations.ModeCommandsCommon : Prop :=
  (∀ (n : BitVec 5), ∀ i ∈ modeCommands n, ∀ s : State, i.wellFormed = true →
    ∃ t, exec i s = .next t ∧ exec i (ensureRoundKeys s) = .next t ∧ t.rkv = true ∧ t.din = s.din) ∧
  (∀ (n : BitVec 5), ∀ i ∈ modeCommands n, ∀ (s : State) (b : Block),
    exec i (s.setStateReg b) = onNext (exec i s) (fun t => t.setStateReg b)) ∧
  (∀ (n : BitVec 5), ∀ i ∈ modeCommands n, ∀ (s : State) (d : Block), i.wellFormed = true →
    exec i (s.setDout d) = exec i s) ∧
  (∀ (n : BitVec 5), ∀ i ∈ fullBlockCommands n, i.wellFormed = true ↔ n = 16) ∧
  (∀ n : BitVec 5, (Instr.ctrxor n).wellFormed = true ↔ 1 ≤ n.toNat ∧ n.toNat ≤ 16) ∧
  (∀ (n : BitVec 5), ∀ i ∈ modeCommands n, ∀ s : State, i.wellFormed = false →
    exec i s = .next (recordError .length s))

/-- R161 and R162: ECBENC and ECBDEC. Encoding of the legal form, effect and frame, errors, no chaining state read, round trip and
examples. -/
def Obligations.EcbCommands : Prop :=
  encode (.ecbenc 16) = 0x20000010#32 ∧ encode (.ecbdec 16) = 0x21000010#32 ∧
  (∀ s : State, ∃ t, exec (.ecbenc 16) s = .next t ∧ t.dout = cipher s.din t.rk ∧
    t = (ensureRoundKeys s).setDout t.dout ∧ t.rkv = true) ∧
  (∀ s : State, ∃ t, exec (.ecbdec 16) s = .next t ∧ t.dout = invCipher s.din t.rk ∧
    t = (ensureRoundKeys s).setDout t.dout ∧ t.rkv = true) ∧
  reservedRaises 0x20 5 ∧ reservedRaises 0x21 5 ∧
  (∀ (n : BitVec 5) (s : State), n ≠ 16 →
    exec (.ecbenc n) s = .next (recordError .length s) ∧ exec (.ecbdec n) s = .next (recordError .length s)) ∧
  (∀ (s : State) (b : Block), exec (.ecbenc 16) (s.setChain b) = onNext (exec (.ecbenc 16) s) (fun t => t.setChain b)) ∧
  (∀ s s' : State, keysCurrent s → keysCurrent s' → s.key = s'.key → s.din = s'.din →
    ∃ t t', exec (.ecbenc 16) s = .next t ∧ exec (.ecbenc 16) s' = .next t' ∧ t.dout = t'.dout) ∧
  (∀ s : State, keysCurrent s → ∃ t u, exec (.ecbenc 16) s = .next t ∧ exec (.ecbdec 16) (t.setDin t.dout) = .next u ∧
    u.dout = s.din) ∧
  (∀ s : State, ∃ t, exec (.ecbenc 16) ((withKey (.ofHex 0x000102030405060708090a0b0c0d0e0f) s).setDin
      (.ofHex 0x00112233445566778899aabbccddeeff)) = .next t ∧ t.dout = .ofHex 0x69c4e0d86a7b0430d8cdb78070b4c55a) ∧
  (∀ s : State, ∃ t, exec (.ecbdec 16) ((withKey (.ofHex 0x000102030405060708090a0b0c0d0e0f) s).setDin
      (.ofHex 0x69c4e0d86a7b0430d8cdb78070b4c55a)) = .next t ∧ t.dout = .ofHex 0x00112233445566778899aabbccddeeff)

/-- R163 and R164: CBCENC and CBCDEC. Encoding, effect and frame, errors that keep CHAIN, corner cases and examples. -/
def Obligations.CbcCommands : Prop :=
  encode (.cbcenc 16) = 0x22000010#32 ∧ encode (.cbcdec 16) = 0x23000010#32 ∧
  (∀ s : State, ∃ t, exec (.cbcenc 16) s = .next t ∧ t.dout = cipher (s.din.xor s.chain) t.rk ∧ t.chain = t.dout ∧
    t = ((ensureRoundKeys s).setDout t.dout).setChain t.chain) ∧
  (∀ s : State, ∃ t, exec (.cbcdec 16) s = .next t ∧ t.dout = (invCipher s.din t.rk).xor s.chain ∧ t.chain = s.din ∧
    t = ((ensureRoundKeys s).setDout t.dout).setChain t.chain) ∧
  reservedRaises 0x22 5 ∧ reservedRaises 0x23 5 ∧
  (∀ (n : BitVec 5) (s : State), n ≠ 16 →
    exec (.cbcenc n) s = .next (recordError .length s) ∧ exec (.cbcdec n) s = .next (recordError .length s)) ∧
  (∀ s : State, s.chain = .ofHex 0 → ∃ t u, exec (.cbcenc 16) s = .next t ∧ exec (.ecbenc 16) s = .next u ∧
    t.dout = u.dout) ∧
  (∀ (s : State) (k p c : Block), ∃ t u,
    exec (.cbcenc 16) (((withKey k s).setDin p).setChain c) = .next t ∧
    exec (.cbcdec 16) (((withKey k s).setDin t.dout).setChain c) = .next u ∧ u.dout = p) ∧
  (∀ s : State, ∃ t, exec (.cbcenc 16) (((withKey (.ofHex 0x000102030405060708090a0b0c0d0e0f) s).setChain
      (.ofHex 0x0f0e0d0c0b0a09080706050403020100)).setDin (.ofHex 0x00112233445566778899aabbccddeeff)) = .next t ∧
    t.dout = .ofHex 0x16628846f7334843bc7321cc79661680 ∧ t.chain = .ofHex 0x16628846f7334843bc7321cc79661680) ∧
  (∀ s : State, ∃ t, exec (.cbcdec 16) (((withKey (.ofHex 0x000102030405060708090a0b0c0d0e0f) s).setChain
      (.ofHex 0x0f0e0d0c0b0a09080706050403020100)).setDin (.ofHex 0x16628846f7334843bc7321cc79661680)) = .next t ∧
    t.dout = .ofHex 0x00112233445566778899aabbccddeeff ∧ t.chain = .ofHex 0x16628846f7334843bc7321cc79661680)

/-- R165 and R166: the counter block, the two serialisations and their agreement at 0 and 2^64 - 1. That State.reset holds the default BE is
the model's choice (log 2). -/
def Obligations.CtrBlockLayout : Prop :=
  (∀ (o : CtrOrder) (n : Nonce) (v : BitVec 64) (j : Fin 8), (ctrBlock o n v).byte ⟨j.val, by omega⟩ = n.byte j) ∧
  (∀ (n : Nonce) (v : BitVec 64) (j : Fin 8),
    ((ctrBlock .be n v).byte ⟨8 + j.val, by omega⟩).toNat = v.toNat / 2 ^ (56 - 8 * j.val) % 256) ∧
  (∀ (n : Nonce) (v : BitVec 64) (j : Fin 8),
    ((ctrBlock .le n v).byte ⟨8 + j.val, by omega⟩).toNat = v.toNat / 2 ^ (8 * j.val) % 256) ∧
  (∀ n : Nonce, ctrBlock .be n 0 = ctrBlock .le n 0 ∧
    ctrBlock .be n 0xFFFFFFFFFFFFFFFF = ctrBlock .le n 0xFFFFFFFFFFFFFFFF) ∧
  State.reset.params.ctrOrder = .be

/-- R167: CTRXOR. Encoding, effect on each byte and frame, errors that keep CTR, DIN above NBYTES not read, its own inverse, and the
example under both orders. -/
def Obligations.CtrxorCommand : Prop :=
  (∀ n : BitVec 5, (encode (.ctrxor n)).toNat = 0x24000000 + n.toNat) ∧
  (∀ (n : BitVec 5) (s : State), 1 ≤ n.toNat → n.toNat ≤ 16 → ∃ t, exec (.ctrxor n) s = .next t ∧
    (∀ j : Fin 16, t.dout.byte j = if j.val < n.toNat
      then s.din.byte j ^^^ (cipher (ctrBlock s.params.ctrOrder s.nonce s.ctr) t.rk).byte j else 0x00) ∧
    t.ctr.toNat = (s.ctr.toNat + 1) % 2 ^ 64 ∧ t = ((ensureRoundKeys s).setDout t.dout).setCtr t.ctr) ∧
  reservedRaises 0x24 5 ∧
  (∀ (n : BitVec 5) (s : State), (n.toNat = 0 ∨ n.toNat > 16) → exec (.ctrxor n) s = .next (recordError .length s)) ∧
  (∀ (n : BitVec 5) (s : State) (d : Block), 1 ≤ n.toNat → n.toNat ≤ 16 →
    (∀ j : Fin 16, j.val < n.toNat → d.byte j = s.din.byte j) →
    exec (.ctrxor n) (s.setDin d) = onNext (exec (.ctrxor n) s) (fun t => t.setDin d)) ∧
  (∀ (n : BitVec 5) (s : State), 1 ≤ n.toNat → n.toNat ≤ 16 → ∃ t u, exec (.ctrxor n) s = .next t ∧
    exec (.ctrxor n) ((t.setCtr s.ctr).setDin t.dout) = .next u ∧
    ∀ j : Fin 16, j.val < n.toNat → u.dout.byte j = s.din.byte j) ∧
  (∀ (s : State) (d : Block), (∀ j : Fin 16, j.val < 5 →
      d.byte j = (Block.ofHex 0x48656c6c6f0000000000000000000000).byte j) →
    ∃ t, exec (.ctrxor 5) ((((withKey (.ofHex 0x000102030405060708090a0b0c0d0e0f) s).setNonce .zero).setCtr 0).setDin d) =
      .next t ∧ t.dout = .ofHex 0x8ec4575be80000000000000000000000 ∧ t.ctr = 1)

/-- R168: the counter's carry from CTRLO into CTRHI and its wrap, with no error and NONCE unchanged. -/
def Obligations.CounterIncrement : Prop :=
  ∀ (n : BitVec 5) (s : State), 1 ≤ n.toNat → n.toNat ≤ 16 → ∃ t, exec (.ctrxor n) s = .next t ∧
    t.ctr.toNat = (s.ctr.toNat + 1) % 2 ^ 64 ∧ t.errcode = s.errcode ∧ t.nonce = s.nonce ∧
    regWord .ctrLo t = regWord .ctrLo s + 1 ∧
    regWord .ctrHi t = (if regWord .ctrLo s = 0xFFFFFFFF#32 then regWord .ctrHi s + 1 else regWord .ctrHi s)

/-- Seekability (R169): the output for block index k, computed directly after writing CTR = k, is the k-th output of a run that starts at
index 0, whatever was enciphered before. -/
def Obligations.CtrSeekable : Prop :=
  ∀ (k : Nat) (s : State) (n : BitVec 5) (d : Block), 1 ≤ n.toNat → n.toNat ≤ 16 →
    ∃ t u v, execAll (List.replicate k (.ctrxor 16)) (s.setCtr 0) = .next t ∧ t.ctr = .ofNat 64 k ∧
      exec (.ctrxor n) (t.setDin d) = .next u ∧ exec (.ctrxor n) ((s.setCtr (.ofNat 64 k)).setDin d) = .next v ∧ u.dout = v.dout

/-- What R173 infers from R152 and R161: under one KEY, equal DIN values give equal DOUT values and different DIN values different ones. -/
def Obligations.EcbOutputsEqualExactlyForEqualInputs : Prop :=
  ∀ (s s' : State), keysCurrent s → keysCurrent s' → s.key = s'.key →
    ∃ t t', exec (.ecbenc 16) s = .next t ∧ exec (.ecbenc 16) s' = .next t' ∧ (t.dout = t'.dout ↔ s.din = s'.din)

/-- R170, R171, R172: over a message of whole blocks, the per-block commands give the source's ECB, CBC and CTR outputs; CBC
leaves CHAIN at the last ciphertext block; and decryption gives the message back. -/
def Obligations.MessagesFollowTheModes : Prop :=
  ∀ (s : State) (msg : List Block), keysCurrent s →
    (∃ t, execBlocks (.ecbenc 16) msg s = some (msg.map (fun p => cipher p (keyExpansion s.key)), t) ∧
      ∃ u, execBlocks (.ecbdec 16) (msg.map (fun p => cipher p (keyExpansion s.key))) t = some (msg, u)) ∧
    (∃ t, execBlocks (.cbcenc 16) msg s = some (cbcMessage (keyExpansion s.key) s.chain msg, t) ∧
      t.chain = (cbcMessage (keyExpansion s.key) s.chain msg).getLastD s.chain ∧
      ∃ u, execBlocks (.cbcdec 16) (cbcMessage (keyExpansion s.key) s.chain msg) (t.setChain s.chain) = some (msg, u) ∧
        u.chain = t.chain) ∧
    (∃ t, execBlocks (.ctrxor 16) msg s =
        some (ctrMessage s.params.ctrOrder s.nonce (keyExpansion s.key) s.ctr msg, t) ∧
      ∃ u, execBlocks (.ctrxor 16) (ctrMessage s.params.ctrOrder s.nonce (keyExpansion s.key) s.ctr msg) (t.setCtr s.ctr) =
        some (msg, u))

/-! ## Engine control and errors (45_engine_control.md, 60_exceptions.md) -/

/-- R180: NOP. Encoding, no effect in `exec`, and in the step only BUSY is cleared. -/
def Obligations.NopCommand : Prop :=
  encode .nop = 0x00000000#32 ∧ (∀ s : State, exec .nop s = .next s) ∧ reservedRaises 0x00 0 ∧
  (∀ (s : State) (rest : List Event), engineNext s rest → s.pending = 0x00000000#32 →
    step s = .next ((s.setInputs rest).setBusy false))

/-- R191: RecordError keeps the first error, and ERRF reads 1 exactly while ERRCODE ≠ 0. -/
def Obligations.RecordErrorIsSticky : Prop :=
  (∀ (e : ErrCode) (s : State), s.errcode.code = 0 → recordError e s = s.setErrcode e) ∧
  (∀ (e : ErrCode) (s : State), s.errcode.code ≠ 0 → recordError e s = s) ∧
  (∀ s : State, (regWord .status s).getLsbD 2 = true ↔ s.errcode.code ≠ 0)

/-- The numbers of R192, which never reach 7, and the fields of STATUS and ERRCODE as they are read (R31, R32). -/
def Obligations.ErrorCodesAndStatusFields : Prop :=
  [ErrCode.none, .illegalOpcode, .reservedNonzero, .roundRange, .length, .cmdWhileBusy, .writeWhileBusy].map ErrCode.code =
    [0, 1, 2, 3, 4, 5, 6] ∧
  (∀ e : ErrCode, e.code.toNat ≤ 6) ∧
  (∀ s : State, (regWord .status s).getLsbD 0 = s.busy ∧ (regWord .status s).getLsbD 1 = s.rkv ∧
    ((regWord .status s).getLsbD 2 = true ↔ s.errcode ≠ .none) ∧ ∀ j, 3 ≤ j → (regWord .status s).getLsbD j = false) ∧
  (∀ s : State, (regWord .errcode s).toNat = s.errcode.code.toNat)

/-- R199: an engine-step error changes no register other than ERRCODE, which changes only if it was 0, and BUSY, which becomes 0; a
host-write error changes only ERRCODE. -/
def Obligations.ErrorsArePrecise : Prop :=
  (∀ (s : State) (rest : List Event) (e : ErrCode), engineNext s rest → raises s.pending e →
    step s = .next (((s.setInputs rest).setErrcode (if s.errcode = .none then e else s.errcode)).setBusy false)) ∧
  (∀ (s : State) (off : BitVec 9) (v : Word), s.busy = true → memWrite off v s = s.setErrcode (memWrite off v s).errcode)

/-- R202: any write to ERRCODE clears it, BUSY or not; an error that is kept does not block later commands, and a second one is not
recorded. -/
def Obligations.ErrorIsClearedAndBlocksNothing : Prop :=
  (∀ (s : State) (v : Word), memWrite 0x008 v s = s.setErrcode .none) ∧
  (∀ (i : Instr) (s : State) (e : ErrCode), i.wellFormed = true →
    exec i (s.setErrcode e) = onNext (exec i s) (fun t => t.setErrcode e)) ∧
  (∀ (i : Instr) (s : State), s.errcode ≠ .none → ∃ t, exec i s = .next t ∧ t.errcode = s.errcode)

/-! ## The register window (20_memory.md) -/

/-- R51: every aligned offset of the window is exactly one row of the map. -/
def Obligations.RegisterMap : Prop :=
  windowReg 0x000 = .cmd ∧ windowReg 0x004 = .status ∧ windowReg 0x008 = .errcode ∧ windowReg 0x00C = .gfres ∧
  (∀ k : Fin 4, windowReg (.ofNat 9 (0x010 + 4 * k.val)) = .key k ∧ windowReg (.ofNat 9 (0x020 + 4 * k.val)) = .stateReg k ∧
    windowReg (.ofNat 9 (0x030 + 4 * k.val)) = .din k ∧ windowReg (.ofNat 9 (0x040 + 4 * k.val)) = .dout k ∧
    windowReg (.ofNat 9 (0x050 + 4 * k.val)) = .chain k) ∧
  windowReg 0x060 = .nonce 0 ∧ windowReg 0x064 = .nonce 1 ∧ windowReg 0x068 = .ctrHi ∧ windowReg 0x06C = .ctrLo ∧
  (∀ off : BitVec 9, 0x070 ≤ off.toNat → off.toNat ≤ 0x0FF → windowReg off = .reserved) ∧
  (∀ i : Fin 44, windowReg (.ofNat 9 (0x100 + 4 * i.val)) = .rkw i) ∧
  (∀ off : BitVec 9, 0x1B0 ≤ off.toNat → windowReg off = .reserved) ∧
  (∀ off off' : BitVec 9, off.toNat % 4 = 0 → off'.toNat % 4 = 0 → windowReg off = windowReg off' →
    windowReg off ≠ .reserved → off = off')

/-- R55 and R56: big-endian bytes within a word of a block register, the example of KEY, and the two halves of CTR. -/
def Obligations.BusByteOrder : Prop :=
  (∀ (b : Block) (k j : Fin 4), (b.word k).toWord.extractLsb' (24 - 8 * j.val) 8 = b.byte ⟨4 * k.val + j.val, by omega⟩) ∧
  (∀ (n : Nonce) (k : Fin 2) (j : Fin 4),
    (n.word k).toWord.extractLsb' (24 - 8 * j.val) 8 = n.byte ⟨4 * k.val + j.val, by omega⟩) ∧
  (∀ (b : Block) (k : Fin 4) (v : Word), ((b.setWord k (.ofWord v)).word k).toWord = v) ∧
  (∀ s : State, s.busy = false → (memWrite 0x01C 0x0C0D0E0F (memWrite 0x018 0x08090A0B (memWrite 0x014 0x04050607
    (memWrite 0x010 0x00010203 s)))).key = .ofHex 0x000102030405060708090a0b0c0d0e0f) ∧
  (∀ s : State, s.ctr.toNat = (regWord .ctrHi s).toNat * 2 ^ 32 + (regWord .ctrLo s).toNat)

/-- R66: a host write of 4 bytes at an aligned offset, for each kind of offset, BUSY or not. -/
def Obligations.HostWrite : Prop :=
  ∀ (s : State) (off : Nat) (v : Word), off < 0x200 → off % 4 = 0 →
    let result := hostAccess (.write (s.params.base + off) 4 v) s
    (off = 0x000 → s.busy = true → result = .next (recordError .cmdWhileBusy s)) ∧
    (off = 0x000 → s.busy = false → result = .next ((s.setPending v).setBusy true)) ∧
    (off = 0x008 → result = .next (s.setErrcode .none)) ∧
    ((0x010 ≤ off ∧ off < 0x040) ∨ (0x050 ≤ off ∧ off < 0x070) →
      (s.busy = true → result = .next (recordError .writeWhileBusy s)) ∧
      (s.busy = false → ∃ t, result = .next t ∧ regWord (windowReg (.ofNat 9 off)) t = v ∧
        t.rkv = (if off < 0x020 then false else s.rkv) ∧
        (∀ r, r ≠ windowReg (.ofNat 9 off) → r ≠ .status → regWord r t = regWord r s) ∧
        t.rk = s.rk ∧ t.dout = s.dout ∧ t.gfres = s.gfres ∧ t.errcode = s.errcode ∧ t.busy = s.busy ∧
        t.pending = s.pending ∧ t.params = s.params ∧ t.inputs = s.inputs ∧ t.seen = s.seen ∧ t.draws = s.draws)) ∧
    (off = 0x004 ∨ off = 0x00C ∨ (0x040 ≤ off ∧ off < 0x050) ∨ 0x070 ≤ off → result = .next s)

/-- R67: a host read of 4 bytes at an aligned offset returns the exact contents, or a fresh free value if a command is pending that may
write the word; and RKV cannot change while BUSY = 1. -/
def Obligations.HostRead : Prop :=
  (∀ (s : State) (off : Nat), off < 0x200 → off % 4 = 0 →
    let result := hostAccess (.read (s.params.base + off) 4) s
    let exact := s.busy = false ∨ writeSet s.pending s.rkv (windowReg (.ofNat 9 off)) = false
    (¬exact → result = .next (see (.value (Config.draw s.draws)) (s.setDraws (s.draws + 1)))) ∧
    (off = 0x000 → result = .next (see (.value 0x00000000) s)) ∧
    (off = 0x004 → result = .next (see (.value (BitVec.setWidth 32
      (BitVec.ofBool (s.errcode.code != 0) ++ BitVec.ofBool s.rkv ++ BitVec.ofBool s.busy))) s)) ∧
    (off = 0x008 → result = .next (see (.value (s.errcode.code.setWidth 32)) s)) ∧
    ((0x070 ≤ off ∧ off < 0x100) ∨ 0x1B0 ≤ off → result = .next (see (.value 0x00000000) s)) ∧
    (exact → off = 0x00C → result = .next (see (.value (s.gfres.setWidth 32)) s)) ∧
    (exact → ∀ k : Fin 4,
      (off = 0x010 + 4 * k.val → result = .next (see (.value (s.key.word k).toWord) s)) ∧
      (off = 0x020 + 4 * k.val → result = .next (see (.value (s.stateReg.word k).toWord) s)) ∧
      (off = 0x030 + 4 * k.val → result = .next (see (.value (s.din.word k).toWord) s)) ∧
      (off = 0x040 + 4 * k.val → result = .next (see (.value (s.dout.word k).toWord) s)) ∧
      (off = 0x050 + 4 * k.val → result = .next (see (.value (s.chain.word k).toWord) s))) ∧
    (exact → ∀ k : Fin 2, off = 0x060 + 4 * k.val → result = .next (see (.value (s.nonce.word k).toWord) s)) ∧
    (exact → off = 0x068 → result = .next (see (.value (s.ctr.extractLsb' 32 32)) s)) ∧
    (exact → off = 0x06C → result = .next (see (.value (s.ctr.extractLsb' 0 32)) s)) ∧
    (exact → ∀ i : Fin 44, off = 0x100 + 4 * i.val → result = .next (see (.value (scheduleWord s.rk i).toWord) s))) ∧
  (∀ s t : State, step s = .next t → s.busy = true → t.busy = true → t.rkv = s.rkv)

/-- R57 and R58: reserved offsets read 0 and ignore writes, writes to read-only registers are ignored, and CMD reads 0, even while
BUSY = 1, with no bus error and no error recorded. -/
def Obligations.ReservedAndReadOnlyWords : Prop :=
  ∀ (s : State) (off : Nat) (v : Word), off < 0x200 → off % 4 = 0 →
    let reads := hostAccess (.read (s.params.base + off) 4) s
    let writes := hostAccess (.write (s.params.base + off) 4 v) s
    ((0x070 ≤ off ∧ off < 0x100) ∨ 0x1B0 ≤ off → reads = .next (see (.value 0x00000000) s) ∧ writes = .next s) ∧
    (off = 0x004 ∨ off = 0x00C ∨ (0x040 ≤ off ∧ off < 0x050) ∨ (0x100 ≤ off ∧ off < 0x1B0) → writes = .next s) ∧
    (off = 0x000 → reads = .next (see (.value 0x00000000) s))

/-- R53, as the model takes it: an access of another size or alignment changes no engine state, records no error and starts no command, and
the host sees BUSERR_RESPONSE (log 7); an access that does not reach the window stops the model (R50, log 8). -/
def Obligations.UnadmittedAccesses : Prop :=
  (∀ (s : State) (a : Access) (off : BitVec 9), windowOffset? s.params.base a.addr = some off →
    (a.size ≠ 4 ∨ off.toNat % 4 ≠ 0) → hostAccess a s = .next (s.setSeen (s.seen ++ [.busErrResponse]))) ∧
  (∀ (s : State) (a : Access), a.addr < s.params.base ∨ s.params.base + 0x200 ≤ a.addr →
    hostAccess a s = .fault (.outsideWindow a.addr)) ∧
  (∀ (base off : Nat), off < 0x200 → windowOffset? base (base + off) = some (.ofNat 9 off))

/-- R84: the write set of each command, taken from the OPC alone; executing a command changes no data word outside it, and a failing command
changes none of its words. -/
def Obligations.WriteSets : Prop :=
  (∀ (w : Word) (rkv : Bool) (r : WinReg), writeSet w rkv r =
    (let opc := (opcField w).toNat
     let plusRk := !rkv && isRkw r
     if opc = 0x01 then isRkw r
     else if 0x10 ≤ opc ∧ opc ≤ 0x15 then isStateReg r
     else if opc = 0x16 ∨ opc = 0x18 ∨ opc = 0x19 then isStateReg r || plusRk
     else if opc = 0x20 ∨ opc = 0x21 then isDout r || plusRk
     else if opc = 0x22 ∨ opc = 0x23 then isDout r || isChain r || plusRk
     else if opc = 0x24 then isDout r || isCtr r || plusRk
     else if opc = 0x30 then r == .gfres
     else false)) ∧
  (∀ (s t : State) (rest : List Event) (r : WinReg), engineNext s rest → step s = .next t →
    writeSet s.pending s.rkv r = false → r ≠ .status → r ≠ .errcode → regWord r t = regWord r s) ∧
  (∀ (s t : State) (rest : List Event) (e : ErrCode) (r : WinReg), engineNext s rest → step s = .next t → raises s.pending e →
    r ≠ .status → r ≠ .errcode → regWord r t = regWord r s)

/-- About two fields that are the model's own, State.draws and State.seen, with which it follows R67 and R68. A free value is drawn only where the
host reads, before BUSY = 0, a word that the pending command may write; every other step draws none. The host's record only grows, by at most
one answer for each event other than reset. The model's choices in it: the count of free values, which a reset does not set back (log 3); the
record, which a reset does not clear and to which an admitted write adds no answer (log 6); the answers of the accesses that a reset leaves unanswered
(log 9). -/
def Obligations.WaitingHostDrawsNothing : Prop :=
  (∀ s t : State, step s = .next t →
    (t.draws ≠ s.draws → s.busy = true ∧ t.draws = s.draws + 1 ∧ ∃ r, readNext s r ∧ writeSet s.pending s.rkv r = true)) ∧
  (∀ s t : State, step s = .next t → ∃ more, t.seen = s.seen ++ more ∧ (¬resetNext s → more.length ≤ 1))
end

