-- ==== Sys2Proof/Laws/State.lean ====
section
/-! SUPPORT. One lemma per field per named update of State, each true by unfolding, so that no later proof unfolds an update. -/

namespace Sys2Proof.Machine

variable (s : State)

/-! ### setKey -/

@[simp] theorem State.setKey_key (v : Block) : (s.setKey v).key = v := rfl
@[simp] theorem State.setKey_rk (v : Block) : (s.setKey v).rk = s.rk := rfl
@[simp] theorem State.setKey_rkv (v : Block) : (s.setKey v).rkv = s.rkv := rfl
@[simp] theorem State.setKey_stateReg (v : Block) : (s.setKey v).stateReg = s.stateReg := rfl
@[simp] theorem State.setKey_din (v : Block) : (s.setKey v).din = s.din := rfl
@[simp] theorem State.setKey_dout (v : Block) : (s.setKey v).dout = s.dout := rfl
@[simp] theorem State.setKey_chain (v : Block) : (s.setKey v).chain = s.chain := rfl
@[simp] theorem State.setKey_nonce (v : Block) : (s.setKey v).nonce = s.nonce := rfl
@[simp] theorem State.setKey_ctr (v : Block) : (s.setKey v).ctr = s.ctr := rfl
@[simp] theorem State.setKey_gfres (v : Block) : (s.setKey v).gfres = s.gfres := rfl
@[simp] theorem State.setKey_errcode (v : Block) : (s.setKey v).errcode = s.errcode := rfl
@[simp] theorem State.setKey_busy (v : Block) : (s.setKey v).busy = s.busy := rfl
@[simp] theorem State.setKey_pending (v : Block) : (s.setKey v).pending = s.pending := rfl
@[simp] theorem State.setKey_params (v : Block) : (s.setKey v).params = s.params := rfl
@[simp] theorem State.setKey_inputs (v : Block) : (s.setKey v).inputs = s.inputs := rfl
@[simp] theorem State.setKey_seen (v : Block) : (s.setKey v).seen = s.seen := rfl
@[simp] theorem State.setKey_draws (v : Block) : (s.setKey v).draws = s.draws := rfl

@[simp] theorem State.setKey_self : s.setKey s.key = s := rfl

@[simp] theorem State.setKey_setKey (v w : Block) : (s.setKey v).setKey w = s.setKey w := rfl

/-! ### setRk -/

@[simp] theorem State.setRk_key (v : RoundKeys) : (s.setRk v).key = s.key := rfl
@[simp] theorem State.setRk_rk (v : RoundKeys) : (s.setRk v).rk = v := rfl
@[simp] theorem State.setRk_rkv (v : RoundKeys) : (s.setRk v).rkv = s.rkv := rfl
@[simp] theorem State.setRk_stateReg (v : RoundKeys) : (s.setRk v).stateReg = s.stateReg := rfl
@[simp] theorem State.setRk_din (v : RoundKeys) : (s.setRk v).din = s.din := rfl
@[simp] theorem State.setRk_dout (v : RoundKeys) : (s.setRk v).dout = s.dout := rfl
@[simp] theorem State.setRk_chain (v : RoundKeys) : (s.setRk v).chain = s.chain := rfl
@[simp] theorem State.setRk_nonce (v : RoundKeys) : (s.setRk v).nonce = s.nonce := rfl
@[simp] theorem State.setRk_ctr (v : RoundKeys) : (s.setRk v).ctr = s.ctr := rfl
@[simp] theorem State.setRk_gfres (v : RoundKeys) : (s.setRk v).gfres = s.gfres := rfl
@[simp] theorem State.setRk_errcode (v : RoundKeys) : (s.setRk v).errcode = s.errcode := rfl
@[simp] theorem State.setRk_busy (v : RoundKeys) : (s.setRk v).busy = s.busy := rfl
@[simp] theorem State.setRk_pending (v : RoundKeys) : (s.setRk v).pending = s.pending := rfl
@[simp] theorem State.setRk_params (v : RoundKeys) : (s.setRk v).params = s.params := rfl
@[simp] theorem State.setRk_inputs (v : RoundKeys) : (s.setRk v).inputs = s.inputs := rfl
@[simp] theorem State.setRk_seen (v : RoundKeys) : (s.setRk v).seen = s.seen := rfl
@[simp] theorem State.setRk_draws (v : RoundKeys) : (s.setRk v).draws = s.draws := rfl

@[simp] theorem State.setRk_self : s.setRk s.rk = s := rfl

@[simp] theorem State.setRk_setRk (v w : RoundKeys) : (s.setRk v).setRk w = s.setRk w := rfl

/-! ### setRkv -/

@[simp] theorem State.setRkv_key (v : Bool) : (s.setRkv v).key = s.key := rfl
@[simp] theorem State.setRkv_rk (v : Bool) : (s.setRkv v).rk = s.rk := rfl
@[simp] theorem State.setRkv_rkv (v : Bool) : (s.setRkv v).rkv = v := rfl
@[simp] theorem State.setRkv_stateReg (v : Bool) : (s.setRkv v).stateReg = s.stateReg := rfl
@[simp] theorem State.setRkv_din (v : Bool) : (s.setRkv v).din = s.din := rfl
@[simp] theorem State.setRkv_dout (v : Bool) : (s.setRkv v).dout = s.dout := rfl
@[simp] theorem State.setRkv_chain (v : Bool) : (s.setRkv v).chain = s.chain := rfl
@[simp] theorem State.setRkv_nonce (v : Bool) : (s.setRkv v).nonce = s.nonce := rfl
@[simp] theorem State.setRkv_ctr (v : Bool) : (s.setRkv v).ctr = s.ctr := rfl
@[simp] theorem State.setRkv_gfres (v : Bool) : (s.setRkv v).gfres = s.gfres := rfl
@[simp] theorem State.setRkv_errcode (v : Bool) : (s.setRkv v).errcode = s.errcode := rfl
@[simp] theorem State.setRkv_busy (v : Bool) : (s.setRkv v).busy = s.busy := rfl
@[simp] theorem State.setRkv_pending (v : Bool) : (s.setRkv v).pending = s.pending := rfl
@[simp] theorem State.setRkv_params (v : Bool) : (s.setRkv v).params = s.params := rfl
@[simp] theorem State.setRkv_inputs (v : Bool) : (s.setRkv v).inputs = s.inputs := rfl
@[simp] theorem State.setRkv_seen (v : Bool) : (s.setRkv v).seen = s.seen := rfl
@[simp] theorem State.setRkv_draws (v : Bool) : (s.setRkv v).draws = s.draws := rfl

@[simp] theorem State.setRkv_self : s.setRkv s.rkv = s := rfl

@[simp] theorem State.setRkv_setRkv (v w : Bool) : (s.setRkv v).setRkv w = s.setRkv w := rfl

/-! ### setStateReg -/

@[simp] theorem State.setStateReg_key (v : Block) : (s.setStateReg v).key = s.key := rfl
@[simp] theorem State.setStateReg_rk (v : Block) : (s.setStateReg v).rk = s.rk := rfl
@[simp] theorem State.setStateReg_rkv (v : Block) : (s.setStateReg v).rkv = s.rkv := rfl
@[simp] theorem State.setStateReg_stateReg (v : Block) : (s.setStateReg v).stateReg = v := rfl
@[simp] theorem State.setStateReg_din (v : Block) : (s.setStateReg v).din = s.din := rfl
@[simp] theorem State.setStateReg_dout (v : Block) : (s.setStateReg v).dout = s.dout := rfl
@[simp] theorem State.setStateReg_chain (v : Block) : (s.setStateReg v).chain = s.chain := rfl
@[simp] theorem State.setStateReg_nonce (v : Block) : (s.setStateReg v).nonce = s.nonce := rfl
@[simp] theorem State.setStateReg_ctr (v : Block) : (s.setStateReg v).ctr = s.ctr := rfl
@[simp] theorem State.setStateReg_gfres (v : Block) : (s.setStateReg v).gfres = s.gfres := rfl
@[simp] theorem State.setStateReg_errcode (v : Block) : (s.setStateReg v).errcode = s.errcode := rfl
@[simp] theorem State.setStateReg_busy (v : Block) : (s.setStateReg v).busy = s.busy := rfl
@[simp] theorem State.setStateReg_pending (v : Block) : (s.setStateReg v).pending = s.pending := rfl
@[simp] theorem State.setStateReg_params (v : Block) : (s.setStateReg v).params = s.params := rfl
@[simp] theorem State.setStateReg_inputs (v : Block) : (s.setStateReg v).inputs = s.inputs := rfl
@[simp] theorem State.setStateReg_seen (v : Block) : (s.setStateReg v).seen = s.seen := rfl
@[simp] theorem State.setStateReg_draws (v : Block) : (s.setStateReg v).draws = s.draws := rfl

@[simp] theorem State.setStateReg_self : s.setStateReg s.stateReg = s := rfl

@[simp] theorem State.setStateReg_setStateReg (v w : Block) : (s.setStateReg v).setStateReg w = s.setStateReg w := rfl

/-! ### setDin -/

@[simp] theorem State.setDin_key (v : Block) : (s.setDin v).key = s.key := rfl
@[simp] theorem State.setDin_rk (v : Block) : (s.setDin v).rk = s.rk := rfl
@[simp] theorem State.setDin_rkv (v : Block) : (s.setDin v).rkv = s.rkv := rfl
@[simp] theorem State.setDin_stateReg (v : Block) : (s.setDin v).stateReg = s.stateReg := rfl
@[simp] theorem State.setDin_din (v : Block) : (s.setDin v).din = v := rfl
@[simp] theorem State.setDin_dout (v : Block) : (s.setDin v).dout = s.dout := rfl
@[simp] theorem State.setDin_chain (v : Block) : (s.setDin v).chain = s.chain := rfl
@[simp] theorem State.setDin_nonce (v : Block) : (s.setDin v).nonce = s.nonce := rfl
@[simp] theorem State.setDin_ctr (v : Block) : (s.setDin v).ctr = s.ctr := rfl
@[simp] theorem State.setDin_gfres (v : Block) : (s.setDin v).gfres = s.gfres := rfl
@[simp] theorem State.setDin_errcode (v : Block) : (s.setDin v).errcode = s.errcode := rfl
@[simp] theorem State.setDin_busy (v : Block) : (s.setDin v).busy = s.busy := rfl
@[simp] theorem State.setDin_pending (v : Block) : (s.setDin v).pending = s.pending := rfl
@[simp] theorem State.setDin_params (v : Block) : (s.setDin v).params = s.params := rfl
@[simp] theorem State.setDin_inputs (v : Block) : (s.setDin v).inputs = s.inputs := rfl
@[simp] theorem State.setDin_seen (v : Block) : (s.setDin v).seen = s.seen := rfl
@[simp] theorem State.setDin_draws (v : Block) : (s.setDin v).draws = s.draws := rfl

@[simp] theorem State.setDin_self : s.setDin s.din = s := rfl

@[simp] theorem State.setDin_setDin (v w : Block) : (s.setDin v).setDin w = s.setDin w := rfl

/-! ### setDout -/

@[simp] theorem State.setDout_key (v : Block) : (s.setDout v).key = s.key := rfl
@[simp] theorem State.setDout_rk (v : Block) : (s.setDout v).rk = s.rk := rfl
@[simp] theorem State.setDout_rkv (v : Block) : (s.setDout v).rkv = s.rkv := rfl
@[simp] theorem State.setDout_stateReg (v : Block) : (s.setDout v).stateReg = s.stateReg := rfl
@[simp] theorem State.setDout_din (v : Block) : (s.setDout v).din = s.din := rfl
@[simp] theorem State.setDout_dout (v : Block) : (s.setDout v).dout = v := rfl
@[simp] theorem State.setDout_chain (v : Block) : (s.setDout v).chain = s.chain := rfl
@[simp] theorem State.setDout_nonce (v : Block) : (s.setDout v).nonce = s.nonce := rfl
@[simp] theorem State.setDout_ctr (v : Block) : (s.setDout v).ctr = s.ctr := rfl
@[simp] theorem State.setDout_gfres (v : Block) : (s.setDout v).gfres = s.gfres := rfl
@[simp] theorem State.setDout_errcode (v : Block) : (s.setDout v).errcode = s.errcode := rfl
@[simp] theorem State.setDout_busy (v : Block) : (s.setDout v).busy = s.busy := rfl
@[simp] theorem State.setDout_pending (v : Block) : (s.setDout v).pending = s.pending := rfl
@[simp] theorem State.setDout_params (v : Block) : (s.setDout v).params = s.params := rfl
@[simp] theorem State.setDout_inputs (v : Block) : (s.setDout v).inputs = s.inputs := rfl
@[simp] theorem State.setDout_seen (v : Block) : (s.setDout v).seen = s.seen := rfl
@[simp] theorem State.setDout_draws (v : Block) : (s.setDout v).draws = s.draws := rfl

@[simp] theorem State.setDout_self : s.setDout s.dout = s := rfl

@[simp] theorem State.setDout_setDout (v w : Block) : (s.setDout v).setDout w = s.setDout w := rfl

/-! ### setChain -/

@[simp] theorem State.setChain_key (v : Block) : (s.setChain v).key = s.key := rfl
@[simp] theorem State.setChain_rk (v : Block) : (s.setChain v).rk = s.rk := rfl
@[simp] theorem State.setChain_rkv (v : Block) : (s.setChain v).rkv = s.rkv := rfl
@[simp] theorem State.setChain_stateReg (v : Block) : (s.setChain v).stateReg = s.stateReg := rfl
@[simp] theorem State.setChain_din (v : Block) : (s.setChain v).din = s.din := rfl
@[simp] theorem State.setChain_dout (v : Block) : (s.setChain v).dout = s.dout := rfl
@[simp] theorem State.setChain_chain (v : Block) : (s.setChain v).chain = v := rfl
@[simp] theorem State.setChain_nonce (v : Block) : (s.setChain v).nonce = s.nonce := rfl
@[simp] theorem State.setChain_ctr (v : Block) : (s.setChain v).ctr = s.ctr := rfl
@[simp] theorem State.setChain_gfres (v : Block) : (s.setChain v).gfres = s.gfres := rfl
@[simp] theorem State.setChain_errcode (v : Block) : (s.setChain v).errcode = s.errcode := rfl
@[simp] theorem State.setChain_busy (v : Block) : (s.setChain v).busy = s.busy := rfl
@[simp] theorem State.setChain_pending (v : Block) : (s.setChain v).pending = s.pending := rfl
@[simp] theorem State.setChain_params (v : Block) : (s.setChain v).params = s.params := rfl
@[simp] theorem State.setChain_inputs (v : Block) : (s.setChain v).inputs = s.inputs := rfl
@[simp] theorem State.setChain_seen (v : Block) : (s.setChain v).seen = s.seen := rfl
@[simp] theorem State.setChain_draws (v : Block) : (s.setChain v).draws = s.draws := rfl

@[simp] theorem State.setChain_self : s.setChain s.chain = s := rfl

@[simp] theorem State.setChain_setChain (v w : Block) : (s.setChain v).setChain w = s.setChain w := rfl

/-! ### setNonce -/

@[simp] theorem State.setNonce_key (v : Nonce) : (s.setNonce v).key = s.key := rfl
@[simp] theorem State.setNonce_rk (v : Nonce) : (s.setNonce v).rk = s.rk := rfl
@[simp] theorem State.setNonce_rkv (v : Nonce) : (s.setNonce v).rkv = s.rkv := rfl
@[simp] theorem State.setNonce_stateReg (v : Nonce) : (s.setNonce v).stateReg = s.stateReg := rfl
@[simp] theorem State.setNonce_din (v : Nonce) : (s.setNonce v).din = s.din := rfl
@[simp] theorem State.setNonce_dout (v : Nonce) : (s.setNonce v).dout = s.dout := rfl
@[simp] theorem State.setNonce_chain (v : Nonce) : (s.setNonce v).chain = s.chain := rfl
@[simp] theorem State.setNonce_nonce (v : Nonce) : (s.setNonce v).nonce = v := rfl
@[simp] theorem State.setNonce_ctr (v : Nonce) : (s.setNonce v).ctr = s.ctr := rfl
@[simp] theorem State.setNonce_gfres (v : Nonce) : (s.setNonce v).gfres = s.gfres := rfl
@[simp] theorem State.setNonce_errcode (v : Nonce) : (s.setNonce v).errcode = s.errcode := rfl
@[simp] theorem State.setNonce_busy (v : Nonce) : (s.setNonce v).busy = s.busy := rfl
@[simp] theorem State.setNonce_pending (v : Nonce) : (s.setNonce v).pending = s.pending := rfl
@[simp] theorem State.setNonce_params (v : Nonce) : (s.setNonce v).params = s.params := rfl
@[simp] theorem State.setNonce_inputs (v : Nonce) : (s.setNonce v).inputs = s.inputs := rfl
@[simp] theorem State.setNonce_seen (v : Nonce) : (s.setNonce v).seen = s.seen := rfl
@[simp] theorem State.setNonce_draws (v : Nonce) : (s.setNonce v).draws = s.draws := rfl

@[simp] theorem State.setNonce_self : s.setNonce s.nonce = s := rfl

@[simp] theorem State.setNonce_setNonce (v w : Nonce) : (s.setNonce v).setNonce w = s.setNonce w := rfl

/-! ### setCtr -/

@[simp] theorem State.setCtr_key (v : BitVec 64) : (s.setCtr v).key = s.key := rfl
@[simp] theorem State.setCtr_rk (v : BitVec 64) : (s.setCtr v).rk = s.rk := rfl
@[simp] theorem State.setCtr_rkv (v : BitVec 64) : (s.setCtr v).rkv = s.rkv := rfl
@[simp] theorem State.setCtr_stateReg (v : BitVec 64) : (s.setCtr v).stateReg = s.stateReg := rfl
@[simp] theorem State.setCtr_din (v : BitVec 64) : (s.setCtr v).din = s.din := rfl
@[simp] theorem State.setCtr_dout (v : BitVec 64) : (s.setCtr v).dout = s.dout := rfl
@[simp] theorem State.setCtr_chain (v : BitVec 64) : (s.setCtr v).chain = s.chain := rfl
@[simp] theorem State.setCtr_nonce (v : BitVec 64) : (s.setCtr v).nonce = s.nonce := rfl
@[simp] theorem State.setCtr_ctr (v : BitVec 64) : (s.setCtr v).ctr = v := rfl
@[simp] theorem State.setCtr_gfres (v : BitVec 64) : (s.setCtr v).gfres = s.gfres := rfl
@[simp] theorem State.setCtr_errcode (v : BitVec 64) : (s.setCtr v).errcode = s.errcode := rfl
@[simp] theorem State.setCtr_busy (v : BitVec 64) : (s.setCtr v).busy = s.busy := rfl
@[simp] theorem State.setCtr_pending (v : BitVec 64) : (s.setCtr v).pending = s.pending := rfl
@[simp] theorem State.setCtr_params (v : BitVec 64) : (s.setCtr v).params = s.params := rfl
@[simp] theorem State.setCtr_inputs (v : BitVec 64) : (s.setCtr v).inputs = s.inputs := rfl
@[simp] theorem State.setCtr_seen (v : BitVec 64) : (s.setCtr v).seen = s.seen := rfl
@[simp] theorem State.setCtr_draws (v : BitVec 64) : (s.setCtr v).draws = s.draws := rfl

@[simp] theorem State.setCtr_self : s.setCtr s.ctr = s := rfl

@[simp] theorem State.setCtr_setCtr (v w : BitVec 64) : (s.setCtr v).setCtr w = s.setCtr w := rfl

/-! ### setGfres -/

@[simp] theorem State.setGfres_key (v : Byte) : (s.setGfres v).key = s.key := rfl
@[simp] theorem State.setGfres_rk (v : Byte) : (s.setGfres v).rk = s.rk := rfl
@[simp] theorem State.setGfres_rkv (v : Byte) : (s.setGfres v).rkv = s.rkv := rfl
@[simp] theorem State.setGfres_stateReg (v : Byte) : (s.setGfres v).stateReg = s.stateReg := rfl
@[simp] theorem State.setGfres_din (v : Byte) : (s.setGfres v).din = s.din := rfl
@[simp] theorem State.setGfres_dout (v : Byte) : (s.setGfres v).dout = s.dout := rfl
@[simp] theorem State.setGfres_chain (v : Byte) : (s.setGfres v).chain = s.chain := rfl
@[simp] theorem State.setGfres_nonce (v : Byte) : (s.setGfres v).nonce = s.nonce := rfl
@[simp] theorem State.setGfres_ctr (v : Byte) : (s.setGfres v).ctr = s.ctr := rfl
@[simp] theorem State.setGfres_gfres (v : Byte) : (s.setGfres v).gfres = v := rfl
@[simp] theorem State.setGfres_errcode (v : Byte) : (s.setGfres v).errcode = s.errcode := rfl
@[simp] theorem State.setGfres_busy (v : Byte) : (s.setGfres v).busy = s.busy := rfl
@[simp] theorem State.setGfres_pending (v : Byte) : (s.setGfres v).pending = s.pending := rfl
@[simp] theorem State.setGfres_params (v : Byte) : (s.setGfres v).params = s.params := rfl
@[simp] theorem State.setGfres_inputs (v : Byte) : (s.setGfres v).inputs = s.inputs := rfl
@[simp] theorem State.setGfres_seen (v : Byte) : (s.setGfres v).seen = s.seen := rfl
@[simp] theorem State.setGfres_draws (v : Byte) : (s.setGfres v).draws = s.draws := rfl

@[simp] theorem State.setGfres_self : s.setGfres s.gfres = s := rfl

@[simp] theorem State.setGfres_setGfres (v w : Byte) : (s.setGfres v).setGfres w = s.setGfres w := rfl

/-! ### setErrcode -/

@[simp] theorem State.setErrcode_key (v : ErrCode) : (s.setErrcode v).key = s.key := rfl
@[simp] theorem State.setErrcode_rk (v : ErrCode) : (s.setErrcode v).rk = s.rk := rfl
@[simp] theorem State.setErrcode_rkv (v : ErrCode) : (s.setErrcode v).rkv = s.rkv := rfl
@[simp] theorem State.setErrcode_stateReg (v : ErrCode) : (s.setErrcode v).stateReg = s.stateReg := rfl
@[simp] theorem State.setErrcode_din (v : ErrCode) : (s.setErrcode v).din = s.din := rfl
@[simp] theorem State.setErrcode_dout (v : ErrCode) : (s.setErrcode v).dout = s.dout := rfl
@[simp] theorem State.setErrcode_chain (v : ErrCode) : (s.setErrcode v).chain = s.chain := rfl
@[simp] theorem State.setErrcode_nonce (v : ErrCode) : (s.setErrcode v).nonce = s.nonce := rfl
@[simp] theorem State.setErrcode_ctr (v : ErrCode) : (s.setErrcode v).ctr = s.ctr := rfl
@[simp] theorem State.setErrcode_gfres (v : ErrCode) : (s.setErrcode v).gfres = s.gfres := rfl
@[simp] theorem State.setErrcode_errcode (v : ErrCode) : (s.setErrcode v).errcode = v := rfl
@[simp] theorem State.setErrcode_busy (v : ErrCode) : (s.setErrcode v).busy = s.busy := rfl
@[simp] theorem State.setErrcode_pending (v : ErrCode) : (s.setErrcode v).pending = s.pending := rfl
@[simp] theorem State.setErrcode_params (v : ErrCode) : (s.setErrcode v).params = s.params := rfl
@[simp] theorem State.setErrcode_inputs (v : ErrCode) : (s.setErrcode v).inputs = s.inputs := rfl
@[simp] theorem State.setErrcode_seen (v : ErrCode) : (s.setErrcode v).seen = s.seen := rfl
@[simp] theorem State.setErrcode_draws (v : ErrCode) : (s.setErrcode v).draws = s.draws := rfl

@[simp] theorem State.setErrcode_self : s.setErrcode s.errcode = s := rfl

@[simp] theorem State.setErrcode_setErrcode (v w : ErrCode) : (s.setErrcode v).setErrcode w = s.setErrcode w := rfl

/-! ### setBusy -/

@[simp] theorem State.setBusy_key (v : Bool) : (s.setBusy v).key = s.key := rfl
@[simp] theorem State.setBusy_rk (v : Bool) : (s.setBusy v).rk = s.rk := rfl
@[simp] theorem State.setBusy_rkv (v : Bool) : (s.setBusy v).rkv = s.rkv := rfl
@[simp] theorem State.setBusy_stateReg (v : Bool) : (s.setBusy v).stateReg = s.stateReg := rfl
@[simp] theorem State.setBusy_din (v : Bool) : (s.setBusy v).din = s.din := rfl
@[simp] theorem State.setBusy_dout (v : Bool) : (s.setBusy v).dout = s.dout := rfl
@[simp] theorem State.setBusy_chain (v : Bool) : (s.setBusy v).chain = s.chain := rfl
@[simp] theorem State.setBusy_nonce (v : Bool) : (s.setBusy v).nonce = s.nonce := rfl
@[simp] theorem State.setBusy_ctr (v : Bool) : (s.setBusy v).ctr = s.ctr := rfl
@[simp] theorem State.setBusy_gfres (v : Bool) : (s.setBusy v).gfres = s.gfres := rfl
@[simp] theorem State.setBusy_errcode (v : Bool) : (s.setBusy v).errcode = s.errcode := rfl
@[simp] theorem State.setBusy_busy (v : Bool) : (s.setBusy v).busy = v := rfl
@[simp] theorem State.setBusy_pending (v : Bool) : (s.setBusy v).pending = s.pending := rfl
@[simp] theorem State.setBusy_params (v : Bool) : (s.setBusy v).params = s.params := rfl
@[simp] theorem State.setBusy_inputs (v : Bool) : (s.setBusy v).inputs = s.inputs := rfl
@[simp] theorem State.setBusy_seen (v : Bool) : (s.setBusy v).seen = s.seen := rfl
@[simp] theorem State.setBusy_draws (v : Bool) : (s.setBusy v).draws = s.draws := rfl

@[simp] theorem State.setBusy_self : s.setBusy s.busy = s := rfl

@[simp] theorem State.setBusy_setBusy (v w : Bool) : (s.setBusy v).setBusy w = s.setBusy w := rfl

/-! ### setPending -/

@[simp] theorem State.setPending_key (v : Word) : (s.setPending v).key = s.key := rfl
@[simp] theorem State.setPending_rk (v : Word) : (s.setPending v).rk = s.rk := rfl
@[simp] theorem State.setPending_rkv (v : Word) : (s.setPending v).rkv = s.rkv := rfl
@[simp] theorem State.setPending_stateReg (v : Word) : (s.setPending v).stateReg = s.stateReg := rfl
@[simp] theorem State.setPending_din (v : Word) : (s.setPending v).din = s.din := rfl
@[simp] theorem State.setPending_dout (v : Word) : (s.setPending v).dout = s.dout := rfl
@[simp] theorem State.setPending_chain (v : Word) : (s.setPending v).chain = s.chain := rfl
@[simp] theorem State.setPending_nonce (v : Word) : (s.setPending v).nonce = s.nonce := rfl
@[simp] theorem State.setPending_ctr (v : Word) : (s.setPending v).ctr = s.ctr := rfl
@[simp] theorem State.setPending_gfres (v : Word) : (s.setPending v).gfres = s.gfres := rfl
@[simp] theorem State.setPending_errcode (v : Word) : (s.setPending v).errcode = s.errcode := rfl
@[simp] theorem State.setPending_busy (v : Word) : (s.setPending v).busy = s.busy := rfl
@[simp] theorem State.setPending_pending (v : Word) : (s.setPending v).pending = v := rfl
@[simp] theorem State.setPending_params (v : Word) : (s.setPending v).params = s.params := rfl
@[simp] theorem State.setPending_inputs (v : Word) : (s.setPending v).inputs = s.inputs := rfl
@[simp] theorem State.setPending_seen (v : Word) : (s.setPending v).seen = s.seen := rfl
@[simp] theorem State.setPending_draws (v : Word) : (s.setPending v).draws = s.draws := rfl

@[simp] theorem State.setPending_self : s.setPending s.pending = s := rfl

@[simp] theorem State.setPending_setPending (v w : Word) : (s.setPending v).setPending w = s.setPending w := rfl

/-! ### setInputs -/

@[simp] theorem State.setInputs_key (v : List Event) : (s.setInputs v).key = s.key := rfl
@[simp] theorem State.setInputs_rk (v : List Event) : (s.setInputs v).rk = s.rk := rfl
@[simp] theorem State.setInputs_rkv (v : List Event) : (s.setInputs v).rkv = s.rkv := rfl
@[simp] theorem State.setInputs_stateReg (v : List Event) : (s.setInputs v).stateReg = s.stateReg := rfl
@[simp] theorem State.setInputs_din (v : List Event) : (s.setInputs v).din = s.din := rfl
@[simp] theorem State.setInputs_dout (v : List Event) : (s.setInputs v).dout = s.dout := rfl
@[simp] theorem State.setInputs_chain (v : List Event) : (s.setInputs v).chain = s.chain := rfl
@[simp] theorem State.setInputs_nonce (v : List Event) : (s.setInputs v).nonce = s.nonce := rfl
@[simp] theorem State.setInputs_ctr (v : List Event) : (s.setInputs v).ctr = s.ctr := rfl
@[simp] theorem State.setInputs_gfres (v : List Event) : (s.setInputs v).gfres = s.gfres := rfl
@[simp] theorem State.setInputs_errcode (v : List Event) : (s.setInputs v).errcode = s.errcode := rfl
@[simp] theorem State.setInputs_busy (v : List Event) : (s.setInputs v).busy = s.busy := rfl
@[simp] theorem State.setInputs_pending (v : List Event) : (s.setInputs v).pending = s.pending := rfl
@[simp] theorem State.setInputs_params (v : List Event) : (s.setInputs v).params = s.params := rfl
@[simp] theorem State.setInputs_inputs (v : List Event) : (s.setInputs v).inputs = v := rfl
@[simp] theorem State.setInputs_seen (v : List Event) : (s.setInputs v).seen = s.seen := rfl
@[simp] theorem State.setInputs_draws (v : List Event) : (s.setInputs v).draws = s.draws := rfl

@[simp] theorem State.setInputs_self : s.setInputs s.inputs = s := rfl

@[simp] theorem State.setInputs_setInputs (v w : List Event) : (s.setInputs v).setInputs w = s.setInputs w := rfl

/-! ### setSeen -/

@[simp] theorem State.setSeen_key (v : List Seen) : (s.setSeen v).key = s.key := rfl
@[simp] theorem State.setSeen_rk (v : List Seen) : (s.setSeen v).rk = s.rk := rfl
@[simp] theorem State.setSeen_rkv (v : List Seen) : (s.setSeen v).rkv = s.rkv := rfl
@[simp] theorem State.setSeen_stateReg (v : List Seen) : (s.setSeen v).stateReg = s.stateReg := rfl
@[simp] theorem State.setSeen_din (v : List Seen) : (s.setSeen v).din = s.din := rfl
@[simp] theorem State.setSeen_dout (v : List Seen) : (s.setSeen v).dout = s.dout := rfl
@[simp] theorem State.setSeen_chain (v : List Seen) : (s.setSeen v).chain = s.chain := rfl
@[simp] theorem State.setSeen_nonce (v : List Seen) : (s.setSeen v).nonce = s.nonce := rfl
@[simp] theorem State.setSeen_ctr (v : List Seen) : (s.setSeen v).ctr = s.ctr := rfl
@[simp] theorem State.setSeen_gfres (v : List Seen) : (s.setSeen v).gfres = s.gfres := rfl
@[simp] theorem State.setSeen_errcode (v : List Seen) : (s.setSeen v).errcode = s.errcode := rfl
@[simp] theorem State.setSeen_busy (v : List Seen) : (s.setSeen v).busy = s.busy := rfl
@[simp] theorem State.setSeen_pending (v : List Seen) : (s.setSeen v).pending = s.pending := rfl
@[simp] theorem State.setSeen_params (v : List Seen) : (s.setSeen v).params = s.params := rfl
@[simp] theorem State.setSeen_inputs (v : List Seen) : (s.setSeen v).inputs = s.inputs := rfl
@[simp] theorem State.setSeen_seen (v : List Seen) : (s.setSeen v).seen = v := rfl
@[simp] theorem State.setSeen_draws (v : List Seen) : (s.setSeen v).draws = s.draws := rfl

@[simp] theorem State.setSeen_self : s.setSeen s.seen = s := rfl

@[simp] theorem State.setSeen_setSeen (v w : List Seen) : (s.setSeen v).setSeen w = s.setSeen w := rfl

/-! ### setDraws -/

@[simp] theorem State.setDraws_key (v : Nat) : (s.setDraws v).key = s.key := rfl
@[simp] theorem State.setDraws_rk (v : Nat) : (s.setDraws v).rk = s.rk := rfl
@[simp] theorem State.setDraws_rkv (v : Nat) : (s.setDraws v).rkv = s.rkv := rfl
@[simp] theorem State.setDraws_stateReg (v : Nat) : (s.setDraws v).stateReg = s.stateReg := rfl
@[simp] theorem State.setDraws_din (v : Nat) : (s.setDraws v).din = s.din := rfl
@[simp] theorem State.setDraws_dout (v : Nat) : (s.setDraws v).dout = s.dout := rfl
@[simp] theorem State.setDraws_chain (v : Nat) : (s.setDraws v).chain = s.chain := rfl
@[simp] theorem State.setDraws_nonce (v : Nat) : (s.setDraws v).nonce = s.nonce := rfl
@[simp] theorem State.setDraws_ctr (v : Nat) : (s.setDraws v).ctr = s.ctr := rfl
@[simp] theorem State.setDraws_gfres (v : Nat) : (s.setDraws v).gfres = s.gfres := rfl
@[simp] theorem State.setDraws_errcode (v : Nat) : (s.setDraws v).errcode = s.errcode := rfl
@[simp] theorem State.setDraws_busy (v : Nat) : (s.setDraws v).busy = s.busy := rfl
@[simp] theorem State.setDraws_pending (v : Nat) : (s.setDraws v).pending = s.pending := rfl
@[simp] theorem State.setDraws_params (v : Nat) : (s.setDraws v).params = s.params := rfl
@[simp] theorem State.setDraws_inputs (v : Nat) : (s.setDraws v).inputs = s.inputs := rfl
@[simp] theorem State.setDraws_seen (v : Nat) : (s.setDraws v).seen = s.seen := rfl
@[simp] theorem State.setDraws_draws (v : Nat) : (s.setDraws v).draws = v := rfl

@[simp] theorem State.setDraws_self : s.setDraws s.draws = s := rfl

@[simp] theorem State.setDraws_setDraws (v w : Nat) : (s.setDraws v).setDraws w = s.setDraws w := rfl

/-- Two states with the same fields are equal. -/
theorem State.ext_fields {s t : State} (key : s.key = t.key) (rk : s.rk = t.rk) (rkv : s.rkv = t.rkv)
    (stateReg : s.stateReg = t.stateReg) (din : s.din = t.din) (dout : s.dout = t.dout) (chain : s.chain = t.chain)
    (nonce : s.nonce = t.nonce) (ctr : s.ctr = t.ctr) (gfres : s.gfres = t.gfres) (errcode : s.errcode = t.errcode)
    (busy : s.busy = t.busy) (pending : s.pending = t.pending) (params : s.params = t.params)
    (inputs : s.inputs = t.inputs) (seen : s.seen = t.seen) (draws : s.draws = t.draws) : s = t := by
  cases s; cases t; simp_all

end Sys2Proof.Machine
end

