-- ==== Sys2Proof/Laws/Operands.lean ====
section
/-! SUPPORT. The byte and word views of a block, their order on the bus, and the register map. -/

namespace Sys2Proof

/-! ### Bytes and words -/

/-- Byte `4c + r` of a block is row r of column c (R10). -/
theorem Block.byte_eq_word_byte (b : Block) (c r : Fin 4) (h : 4 * c.val + r.val < 16) :
    b.byte ⟨4 * c.val + r.val, h⟩ = (b.word c).byte r := by
  have h1 : (4 * c.val + r.val) / 4 = c.val := by omega
  have h2 : (4 * c.val + r.val) % 4 = r.val := by omega
  simp only [Block.byte, h1, h2, Fin.eta]

theorem Block.word_byte (b : Block) (i : Fin 16) :
    (b.word ⟨i.val / 4, by omega⟩).byte ⟨i.val % 4, by omega⟩ = b.byte i := rfl

@[simp] theorem Block.byte_ofBytes (f : Fin 16 → Byte) (i : Fin 16) : (Block.ofBytes f).byte i = f i := by
  fin_cases i <;> rfl

theorem Column.ext_bytes {c d : Column} (h : ∀ j, c.byte j = d.byte j) : c = d :=
  Column.ext (h 0) (h 1) (h 2) (h 3)

theorem Block.ext_words {b d : Block} (h : ∀ k, b.word k = d.word k) : b = d :=
  Block.ext (h 0) (h 1) (h 2) (h 3)

theorem Block.ext_bytes {b d : Block} (h : ∀ i, b.byte i = d.byte i) : b = d :=
  Block.ext_words fun c => Column.ext_bytes fun r => by
    rw [← Block.byte_eq_word_byte b c r (by omega), ← Block.byte_eq_word_byte d c r (by omega)]
    exact h _

@[simp] theorem Block.word_setWord_same (b : Block) (k : Fin 4) (c : Column) : (b.setWord k c).word k = c := by
  fin_cases k <;> rfl

theorem Block.word_setWord_ne (b : Block) {k l : Fin 4} (c : Column) (h : l ≠ k) :
    (b.setWord k c).word l = b.word l := by
  fin_cases k <;> fin_cases l <;> first | rfl | exact absurd rfl h

@[simp] theorem Nonce.word_setWord_same (n : Nonce) (k : Fin 2) (c : Column) : (n.setWord k c).word k = c := by
  fin_cases k <;> rfl

theorem Nonce.word_setWord_ne (n : Nonce) {k l : Fin 2} (c : Column) (h : l ≠ k) :
    (n.setWord k c).word l = n.word l := by
  fin_cases k <;> fin_cases l <;> first | rfl | exact absurd rfl h

/-! ### Bytewise operations -/

@[simp] theorem Column.byte_map (f : Byte → Byte) (c : Column) (j : Fin 4) : (c.map f).byte j = f (c.byte j) := by
  fin_cases j <;> rfl

@[simp] theorem Column.byte_xor (c d : Column) (j : Fin 4) : (c.xor d).byte j = c.byte j ^^^ d.byte j := by
  fin_cases j <;> rfl

@[simp] theorem Block.word_map (f : Column → Column) (b : Block) (k : Fin 4) : (b.map f).word k = f (b.word k) := by
  fin_cases k <;> rfl

@[simp] theorem Block.word_xor (b d : Block) (k : Fin 4) : (b.xor d).word k = (b.word k).xor (d.word k) := by
  fin_cases k <;> rfl

@[simp] theorem Block.byte_xor (b d : Block) (i : Fin 16) : (b.xor d).byte i = b.byte i ^^^ d.byte i := by
  simp [Block.byte]

@[simp] theorem Block.byte_map_map (f : Byte → Byte) (b : Block) (i : Fin 16) :
    (b.map (Column.map f)).byte i = f (b.byte i) := by
  simp [Block.byte]

/-- XOR with the same block twice gives the first block back (R119). -/
@[simp] theorem Block.xor_xor_cancel (b d : Block) : (b.xor d).xor d = b :=
  Block.ext_bytes fun i => by simp

theorem Block.xor_comm (b d : Block) : b.xor d = d.xor b :=
  Block.ext_bytes fun i => by simp [BitVec.xor_comm]

theorem Block.xor_assoc (a b c : Block) : (a.xor b).xor c = a.xor (b.xor c) :=
  Block.ext_bytes fun i => by simp [BitVec.xor_assoc]

@[simp] theorem Block.xor_zero (b : Block) : b.xor .zero = b := by
  ext <;> simp [Block.xor, Block.zero, Column.xor, Column.zero]

@[simp] theorem Block.zero_xor (b : Block) : Block.zero.xor b = b := by
  rw [Block.xor_comm, Block.xor_zero]

/-! ### The bus -/

theorem append4_getLsbD (a b c d : Byte) (i : Nat) :
    (a ++ b ++ c ++ d).getLsbD i = if i < 8 then d.getLsbD i else if i < 16 then c.getLsbD (i - 8)
      else if i < 24 then b.getLsbD (i - 16) else a.getLsbD (i - 24) := by
  simp only [BitVec.getLsbD_append]
  by_cases h1 : i < 8
  · simp [h1]
  · by_cases h2 : i < 16
    · have : i - 8 < 8 := by omega
      simp [h1, h2, this]
    · have h2' : ¬ (i - 8 < 8) := by omega
      by_cases h3 : i < 24
      · have : i - 8 - 8 < 8 := by omega
        simp [h1, h2, h2', h3, this]; congr 1
      · have h3' : ¬ (i - 8 - 8 < 8) := by omega
        simp [h1, h2, h2', h3, h3']; congr 1

theorem Column.toWord_getLsbD (c : Column) (i : Nat) :
    c.toWord.getLsbD i = if i < 8 then c.a3.getLsbD i else if i < 16 then c.a2.getLsbD (i - 8)
      else if i < 24 then c.a1.getLsbD (i - 16) else c.a0.getLsbD (i - 24) :=
  append4_getLsbD c.a0 c.a1 c.a2 c.a3 i

@[simp] theorem Column.ofWord_toWord (c : Column) : Column.ofWord c.toWord = c := by
  ext i hi <;> simp only [Column.ofWord, BitVec.getElem_extractLsb', Column.toWord_getLsbD] <;>
    (repeat rw [if_neg (by omega)]) <;> try rw [if_pos (by omega)]
  all_goals rw [← BitVec.getLsbD_eq_getElem hi]; congr 1; omega

@[simp] theorem Column.toWord_ofWord (w : Word) : (Column.ofWord w).toWord = w := by
  apply BitVec.eq_of_getLsbD_eq
  intro i hi
  rw [Column.toWord_getLsbD]
  simp only [Column.ofWord, BitVec.getLsbD_extractLsb']
  split
  · simp [*]
  · split
    · have : i - 8 < 8 := by omega
      have e : 8 + (i - 8) = i := by omega
      simp [this, e]
    · split
      · have : i - 16 < 8 := by omega
        have e : 16 + (i - 16) = i := by omega
        simp [this, e]
      · have : i - 24 < 8 := by omega
        have e : 24 + (i - 24) = i := by omega
        simp [this, e]

theorem append2_getLsbD (a b : Word) (i : Nat) :
    (a ++ b).getLsbD i = if i < 32 then b.getLsbD i else a.getLsbD (i - 32) := by
  simp only [BitVec.getLsbD_append]

theorem ctrHi_append_ctrLo (v : BitVec 64) : ctrHi v ++ ctrLo v = v := by
  apply BitVec.eq_of_getLsbD_eq
  intro i hi
  rw [append2_getLsbD]
  simp only [ctrHi, ctrLo, BitVec.getLsbD_extractLsb']
  split
  · simp [*]
  · have h : i - 32 < 32 := by omega
    have e : 32 + (i - 32) = i := by omega
    simp [h, e]

@[simp] theorem ctrHi_append (hi lo : Word) : ctrHi (hi ++ lo) = hi := by
  apply BitVec.eq_of_getLsbD_eq
  intro i h
  simp only [ctrHi, BitVec.getLsbD_extractLsb', append2_getLsbD, h, decide_true, Bool.true_and]
  rw [if_neg (by omega)]; congr 1; omega

@[simp] theorem ctrLo_append (hi lo : Word) : ctrLo (hi ++ lo) = lo := by
  apply BitVec.eq_of_getLsbD_eq
  intro i h
  simp only [ctrLo, BitVec.getLsbD_extractLsb', append2_getLsbD, h, decide_true, Bool.true_and]
  rw [if_pos (by omega)]; congr 1; omega

@[simp] theorem ctrHi_setCtrHi (v : BitVec 64) (w : Word) : ctrHi (setCtrHi v w) = w := ctrHi_append w _
@[simp] theorem ctrLo_setCtrHi (v : BitVec 64) (w : Word) : ctrLo (setCtrHi v w) = ctrLo v := ctrLo_append w _
@[simp] theorem ctrHi_setCtrLo (v : BitVec 64) (w : Word) : ctrHi (setCtrLo v w) = ctrHi v := ctrHi_append _ w
@[simp] theorem ctrLo_setCtrLo (v : BitVec 64) (w : Word) : ctrLo (setCtrLo v w) = w := ctrLo_append _ w

/-- The address decoder passes `BASE + off` on as `off`, for any window offset (R50). -/
theorem windowOffset?_base_add (base off : Nat) (h : off < 0x200) :
    windowOffset? base (base + off) = some (.ofNat 9 off) := by
  simp [windowOffset?, h]

/-- An address the decoder passes on is BASE plus its offset. -/
theorem windowOffset?_eq_some {base addr : Nat} {off : BitVec 9} (h : windowOffset? base addr = some off) :
    addr = base + off.toNat := by
  unfold windowOffset? at h
  split at h
  · obtain ⟨h1, h2⟩ := ‹_ ∧ _›
    simp only [Option.some.injEq] at h
    subst h
    simp only [BitVec.toNat_ofNat]
    omega
  · exact absurd h (by simp)

end Sys2Proof
end

