-- ==== Sys2Proof/Laws/Ops.lean ====
section
/-! SUPPORT. One lemma for everything a shared operation can do, and what it leaves alone. -/

namespace Sys2Proof.Machine

variable (s : State)

/-! ### Recording and clearing an error -/

/-- RecordError changes ERRCODE alone, and only if it was 0 (R191). -/
theorem recordError_eq (e : ErrCode) :
    recordError e s = s.setErrcode (if s.errcode = .none then e else s.errcode) := by
  unfold recordError
  split <;> rfl

theorem recordError_of_none {e : ErrCode} (h : s.errcode = .none) : recordError e s = s.setErrcode e := by
  simp [recordError, h]

theorem recordError_of_kept {e : ErrCode} (h : s.errcode ≠ .none) : recordError e s = s := by
  simp [recordError, h]

@[simp] theorem raiseEngineError_eq (e : ErrCode) : raiseEngineError e s = recordError e s := rfl

@[simp] theorem recordError_key (e : ErrCode) : (recordError e s).key = s.key := by simp [recordError_eq]
@[simp] theorem recordError_rk (e : ErrCode) : (recordError e s).rk = s.rk := by simp [recordError_eq]
@[simp] theorem recordError_rkv (e : ErrCode) : (recordError e s).rkv = s.rkv := by simp [recordError_eq]
@[simp] theorem recordError_stateReg (e : ErrCode) : (recordError e s).stateReg = s.stateReg := by simp [recordError_eq]
@[simp] theorem recordError_din (e : ErrCode) : (recordError e s).din = s.din := by simp [recordError_eq]
@[simp] theorem recordError_dout (e : ErrCode) : (recordError e s).dout = s.dout := by simp [recordError_eq]
@[simp] theorem recordError_chain (e : ErrCode) : (recordError e s).chain = s.chain := by simp [recordError_eq]
@[simp] theorem recordError_nonce (e : ErrCode) : (recordError e s).nonce = s.nonce := by simp [recordError_eq]
@[simp] theorem recordError_ctr (e : ErrCode) : (recordError e s).ctr = s.ctr := by simp [recordError_eq]
@[simp] theorem recordError_gfres (e : ErrCode) : (recordError e s).gfres = s.gfres := by simp [recordError_eq]
@[simp] theorem recordError_busy (e : ErrCode) : (recordError e s).busy = s.busy := by simp [recordError_eq]
@[simp] theorem recordError_pending (e : ErrCode) : (recordError e s).pending = s.pending := by simp [recordError_eq]
@[simp] theorem recordError_params (e : ErrCode) : (recordError e s).params = s.params := by simp [recordError_eq]
@[simp] theorem recordError_inputs (e : ErrCode) : (recordError e s).inputs = s.inputs := by simp [recordError_eq]
@[simp] theorem recordError_seen (e : ErrCode) : (recordError e s).seen = s.seen := by simp [recordError_eq]
@[simp] theorem recordError_draws (e : ErrCode) : (recordError e s).draws = s.draws := by simp [recordError_eq]

@[simp] theorem clearError_eq : clearError s = s.setErrcode .none := rfl

/-! ### The round keys -/

@[simp] theorem expandKey_eq : expandKey s = (s.setRk (keyExpansion s.key)).setRkv true := rfl

/-- EnsureRoundKeys changes RK and RKV alone (R145). -/
theorem ensureRoundKeys_eq :
    ensureRoundKeys s = (s.setRk (if s.rkv then s.rk else keyExpansion s.key)).setRkv true := by
  unfold ensureRoundKeys
  split
  · cases s; simp_all [State.setRk, State.setRkv]
  · rfl

theorem ensureRoundKeys_of_valid (h : s.rkv = true) : ensureRoundKeys s = s := by simp [ensureRoundKeys, h]

theorem ensureRoundKeys_of_invalid (h : s.rkv = false) :
    ensureRoundKeys s = (s.setRk (keyExpansion s.key)).setRkv true := by simp [ensureRoundKeys, h]

@[simp] theorem ensureRoundKeys_rkv : (ensureRoundKeys s).rkv = true := by simp [ensureRoundKeys_eq]

theorem ensureRoundKeys_rk : (ensureRoundKeys s).rk = if s.rkv then s.rk else keyExpansion s.key := by
  simp [ensureRoundKeys_eq]

@[simp] theorem ensureRoundKeys_key : (ensureRoundKeys s).key = s.key := by simp [ensureRoundKeys_eq]
@[simp] theorem ensureRoundKeys_stateReg : (ensureRoundKeys s).stateReg = s.stateReg := by simp [ensureRoundKeys_eq]
@[simp] theorem ensureRoundKeys_din : (ensureRoundKeys s).din = s.din := by simp [ensureRoundKeys_eq]
@[simp] theorem ensureRoundKeys_dout : (ensureRoundKeys s).dout = s.dout := by simp [ensureRoundKeys_eq]
@[simp] theorem ensureRoundKeys_chain : (ensureRoundKeys s).chain = s.chain := by simp [ensureRoundKeys_eq]
@[simp] theorem ensureRoundKeys_nonce : (ensureRoundKeys s).nonce = s.nonce := by simp [ensureRoundKeys_eq]
@[simp] theorem ensureRoundKeys_ctr : (ensureRoundKeys s).ctr = s.ctr := by simp [ensureRoundKeys_eq]
@[simp] theorem ensureRoundKeys_gfres : (ensureRoundKeys s).gfres = s.gfres := by simp [ensureRoundKeys_eq]
@[simp] theorem ensureRoundKeys_errcode : (ensureRoundKeys s).errcode = s.errcode := by simp [ensureRoundKeys_eq]
@[simp] theorem ensureRoundKeys_busy : (ensureRoundKeys s).busy = s.busy := by simp [ensureRoundKeys_eq]
@[simp] theorem ensureRoundKeys_pending : (ensureRoundKeys s).pending = s.pending := by simp [ensureRoundKeys_eq]
@[simp] theorem ensureRoundKeys_params : (ensureRoundKeys s).params = s.params := by simp [ensureRoundKeys_eq]
@[simp] theorem ensureRoundKeys_inputs : (ensureRoundKeys s).inputs = s.inputs := by simp [ensureRoundKeys_eq]
@[simp] theorem ensureRoundKeys_seen : (ensureRoundKeys s).seen = s.seen := by simp [ensureRoundKeys_eq]
@[simp] theorem ensureRoundKeys_draws : (ensureRoundKeys s).draws = s.draws := by simp [ensureRoundKeys_eq]

@[simp] theorem ensureRoundKeys_idem : ensureRoundKeys (ensureRoundKeys s) = ensureRoundKeys s :=
  ensureRoundKeys_of_valid _ (by simp)

/-! ### Updates of registers that an operation neither reads nor writes -/

theorem ensureRoundKeys_setStateReg (v : Block) : ensureRoundKeys (s.setStateReg v) = (ensureRoundKeys s).setStateReg v := by
  rw [ensureRoundKeys_eq, ensureRoundKeys_eq]; rfl

theorem ensureRoundKeys_setDin (v : Block) : ensureRoundKeys (s.setDin v) = (ensureRoundKeys s).setDin v := by
  rw [ensureRoundKeys_eq, ensureRoundKeys_eq]; rfl

theorem ensureRoundKeys_setDout (v : Block) : ensureRoundKeys (s.setDout v) = (ensureRoundKeys s).setDout v := by
  rw [ensureRoundKeys_eq, ensureRoundKeys_eq]; rfl

theorem ensureRoundKeys_setChain (v : Block) : ensureRoundKeys (s.setChain v) = (ensureRoundKeys s).setChain v := by
  rw [ensureRoundKeys_eq, ensureRoundKeys_eq]; rfl

theorem ensureRoundKeys_setNonce (v : Nonce) : ensureRoundKeys (s.setNonce v) = (ensureRoundKeys s).setNonce v := by
  rw [ensureRoundKeys_eq, ensureRoundKeys_eq]; rfl

theorem ensureRoundKeys_setCtr (v : BitVec 64) : ensureRoundKeys (s.setCtr v) = (ensureRoundKeys s).setCtr v := by
  rw [ensureRoundKeys_eq, ensureRoundKeys_eq]; rfl

theorem ensureRoundKeys_setGfres (v : Byte) : ensureRoundKeys (s.setGfres v) = (ensureRoundKeys s).setGfres v := by
  rw [ensureRoundKeys_eq, ensureRoundKeys_eq]; rfl

theorem ensureRoundKeys_setErrcode (v : ErrCode) : ensureRoundKeys (s.setErrcode v) = (ensureRoundKeys s).setErrcode v := by
  rw [ensureRoundKeys_eq, ensureRoundKeys_eq]; rfl

theorem ensureRoundKeys_setBusy (v : Bool) : ensureRoundKeys (s.setBusy v) = (ensureRoundKeys s).setBusy v := by
  rw [ensureRoundKeys_eq, ensureRoundKeys_eq]; rfl

theorem ensureRoundKeys_setPending (v : Word) : ensureRoundKeys (s.setPending v) = (ensureRoundKeys s).setPending v := by
  rw [ensureRoundKeys_eq, ensureRoundKeys_eq]; rfl

theorem ensureRoundKeys_setInputs (v : List Event) : ensureRoundKeys (s.setInputs v) = (ensureRoundKeys s).setInputs v := by
  rw [ensureRoundKeys_eq, ensureRoundKeys_eq]; rfl

theorem ensureRoundKeys_setSeen (v : List Seen) : ensureRoundKeys (s.setSeen v) = (ensureRoundKeys s).setSeen v := by
  rw [ensureRoundKeys_eq, ensureRoundKeys_eq]; rfl

theorem ensureRoundKeys_setDraws (v : Nat) : ensureRoundKeys (s.setDraws v) = (ensureRoundKeys s).setDraws v := by
  rw [ensureRoundKeys_eq, ensureRoundKeys_eq]; rfl

theorem recordError_setKey (e : ErrCode) (v : Block) : recordError e (s.setKey v) = (recordError e s).setKey v := by
  rw [recordError_eq, recordError_eq]; rfl

theorem recordError_setRk (e : ErrCode) (v : RoundKeys) : recordError e (s.setRk v) = (recordError e s).setRk v := by
  rw [recordError_eq, recordError_eq]; rfl

theorem recordError_setRkv (e : ErrCode) (v : Bool) : recordError e (s.setRkv v) = (recordError e s).setRkv v := by
  rw [recordError_eq, recordError_eq]; rfl

theorem recordError_setStateReg (e : ErrCode) (v : Block) : recordError e (s.setStateReg v) = (recordError e s).setStateReg v := by
  rw [recordError_eq, recordError_eq]; rfl

theorem recordError_setDin (e : ErrCode) (v : Block) : recordError e (s.setDin v) = (recordError e s).setDin v := by
  rw [recordError_eq, recordError_eq]; rfl

theorem recordError_setDout (e : ErrCode) (v : Block) : recordError e (s.setDout v) = (recordError e s).setDout v := by
  rw [recordError_eq, recordError_eq]; rfl

theorem recordError_setChain (e : ErrCode) (v : Block) : recordError e (s.setChain v) = (recordError e s).setChain v := by
  rw [recordError_eq, recordError_eq]; rfl

theorem recordError_setNonce (e : ErrCode) (v : Nonce) : recordError e (s.setNonce v) = (recordError e s).setNonce v := by
  rw [recordError_eq, recordError_eq]; rfl

theorem recordError_setCtr (e : ErrCode) (v : BitVec 64) : recordError e (s.setCtr v) = (recordError e s).setCtr v := by
  rw [recordError_eq, recordError_eq]; rfl

theorem recordError_setGfres (e : ErrCode) (v : Byte) : recordError e (s.setGfres v) = (recordError e s).setGfres v := by
  rw [recordError_eq, recordError_eq]; rfl

theorem recordError_setBusy (e : ErrCode) (v : Bool) : recordError e (s.setBusy v) = (recordError e s).setBusy v := by
  rw [recordError_eq, recordError_eq]; rfl

theorem recordError_setPending (e : ErrCode) (v : Word) : recordError e (s.setPending v) = (recordError e s).setPending v := by
  rw [recordError_eq, recordError_eq]; rfl

theorem recordError_setInputs (e : ErrCode) (v : List Event) : recordError e (s.setInputs v) = (recordError e s).setInputs v := by
  rw [recordError_eq, recordError_eq]; rfl

theorem recordError_setSeen (e : ErrCode) (v : List Seen) : recordError e (s.setSeen v) = (recordError e s).setSeen v := by
  rw [recordError_eq, recordError_eq]; rfl

theorem recordError_setDraws (e : ErrCode) (v : Nat) : recordError e (s.setDraws v) = (recordError e s).setDraws v := by
  rw [recordError_eq, recordError_eq]; rfl

/-! ### Checks, the end of a command, the host's record -/

theorem checked_of_legal {legal : Bool} (h : legal = true) (e : ErrCode) (f : State → State) :
    checked legal e f s = f s := by simp [checked, h]

theorem checked_of_illegal {legal : Bool} (h : legal = false) (e : ErrCode) (f : State → State) :
    checked legal e f s = recordError e s := by simp [checked, h]

@[simp] theorem finish_eq : finish s = s.setBusy false := rfl

@[simp] theorem onNext_next (f : State → State) : onNext (.next s) f = .next (f s) := rfl
@[simp] theorem onNext_fault (e : Fault) (f : State → State) : onNext (.fault e) f = .fault e := rfl
@[simp] theorem onNext_refused (e : Refusal) (f : State → State) : onNext (.refused e) f = .refused e := rfl

@[simp] theorem see_eq (v : Seen) : see v s = s.setSeen (s.seen ++ [v]) := rfl

/-! ### What the commands' shared parts do -/

@[simp] theorem transformState_eq (f : Block → Block) : transformState f s = s.setStateReg (f s.stateReg) := rfl

@[simp] theorem cipherState_eq (f : Block → RoundKeys → Block) :
    cipherState f s = (ensureRoundKeys s).setStateReg (f s.stateReg (ensureRoundKeys s).rk) := by
  simp [cipherState]

theorem fullBlockMode_of_full {n : BitVec 5} (h : n = 16) (f : State → State) :
    fullBlockMode n f s = f (ensureRoundKeys s) := by
  subst h; rfl

theorem fullBlock_eq_false {n : BitVec 5} (h : n ≠ 16) : fullBlock n = false := by
  have : n.toNat ≠ 16 := fun e => h (BitVec.eq_of_toNat_eq e)
  simpa [fullBlock] using this

theorem fullBlockMode_of_not_full {n : BitVec 5} (h : n ≠ 16) (f : State → State) :
    fullBlockMode n f s = recordError .length s := by
  simp [fullBlockMode, checked, fullBlock_eq_false h]

theorem ctrLength_iff (n : BitVec 5) : ctrLength n = true ↔ 1 ≤ n.toNat ∧ n.toNat ≤ 16 := by
  simp [ctrLength]; omega

end Sys2Proof.Machine
end

