-- ==== Sys2Proof/Laws/Bus.lean ====
section
/-! SUPPORT. What host reads, host writes and resets can do. -/

namespace Sys2Proof.Machine

variable (s : State)

/-! ### Reads -/

/-- A read that draws nothing returns the word's exact contents and changes nothing (R59, R67). -/
theorem memRead_exact {off : BitVec 9} (h : s.busy = false ∨ writeSet s.pending s.rkv (windowReg off) = false) :
    memRead off s = (regWord (windowReg off) s, s) := by
  rcases h with h | h <;> simp [memRead, h]

/-- A read, while BUSY = 1, of a word that the pending command may write returns a fresh free value (R67). -/
theorem memRead_draw {off : BitVec 9} (hb : s.busy = true) (h : writeSet s.pending s.rkv (windowReg off) = true) :
    memRead off s = (Config.draw s.draws, s.setDraws (s.draws + 1)) := by
  simp [memRead, hb, h]

/-- A read changes at most the count of free values. -/
theorem memRead_state (off : BitVec 9) : (memRead off s).2 = s ∨
    ((memRead off s).2 = s.setDraws (s.draws + 1) ∧ s.busy = true ∧
      writeSet s.pending s.rkv (windowReg off) = true) := by
  by_cases hb : s.busy = true
  · by_cases hw : writeSet s.pending s.rkv (windowReg off) = true
    · exact .inr ⟨by rw [memRead_draw s hb hw], hb, hw⟩
    · exact .inl (by rw [memRead_exact s (.inr (by simpa using hw))])
  · exact .inl (by rw [memRead_exact s (.inl (by simpa using hb))])

/-- CMD, STATUS, ERRCODE and the reserved offsets are in no write set: their reads are always exact (R84). -/
theorem writeSet_exact_words (cmd : Word) (rkv : Bool) : writeSet cmd rkv .cmd = false ∧ writeSet cmd rkv .status = false ∧
    writeSet cmd rkv .errcode = false ∧ writeSet cmd rkv .reserved = false := by
  unfold writeSet
  split
  · simp
  · rename_i row _
    cases row.build cmd <;> simp [commandWrites, isRkw, isStateReg, isDout, isChain, isCtr, isGfres]

/-! ### Writes -/

theorem dataWrite_idle {t : State} (h : s.busy = false) : dataWrite t s = t := by simp [dataWrite, h]

theorem dataWrite_busy {t : State} (h : s.busy = true) : dataWrite t s = recordError .writeWhileBusy s := by
  simp [dataWrite, h]

theorem cmdWrite_idle {v : Word} (h : s.busy = false) : cmdWrite v s = (s.setPending v).setBusy true := by
  simp [cmdWrite, h]

theorem cmdWrite_busy {v : Word} (h : s.busy = true) : cmdWrite v s = recordError .cmdWhileBusy s := by
  simp [cmdWrite, h]

/-- While BUSY = 1 a host write changes at most ERRCODE (R66, R199). -/
theorem memWrite_busy (off : BitVec 9) (v : Word) (h : s.busy = true) :
    ∃ e, memWrite off v s = s.setErrcode e := by
  unfold memWrite
  split <;> try simp only [dataWrite_busy s h, cmdWrite_busy s h, recordError_eq, clearError_eq]
  all_goals exact ⟨_, rfl⟩

/-- What no host write changes: RK, DOUT, GFRES and the model's own fields (R39). -/
structure WriteFrame (s t : State) : Prop where
  rk : t.rk = s.rk
  dout : t.dout = s.dout
  gfres : t.gfres = s.gfres
  params : t.params = s.params
  inputs : t.inputs = s.inputs
  seen : t.seen = s.seen
  draws : t.draws = s.draws

theorem memWrite_frame (off : BitVec 9) (v : Word) : WriteFrame s (memWrite off v s) := by
  by_cases hb : s.busy = true
  · obtain ⟨e, he⟩ := memWrite_busy s off v hb
    rw [he]; constructor <;> simp
  · have hb : s.busy = false := by simpa using hb
    unfold memWrite
    split <;> (try simp only [dataWrite_idle s hb, cmdWrite_idle s hb, clearError_eq]) <;> constructor <;> simp

/-- A host write changes KEY and RKV only as an accepted write to a word of KEY, which clears RKV (R20, R66). -/
theorem memWrite_key (off : BitVec 9) (v : Word) :
    ((memWrite off v s).key = s.key ∧ (memWrite off v s).rkv = s.rkv) ∨
      (s.busy = false ∧ (memWrite off v s).rkv = false ∧ ∃ k, windowReg off = .key k) := by
  by_cases hb : s.busy = true
  · obtain ⟨e, he⟩ := memWrite_busy s off v hb
    rw [he]; exact .inl ⟨rfl, rfl⟩
  · have hb : s.busy = false := by simpa using hb
    unfold memWrite
    split <;> (try rw [dataWrite_idle s hb]) <;> (try rw [cmdWrite_idle s hb])
    case h_3 k hk => exact .inr ⟨hb, rfl, k, hk⟩
    all_goals exact .inl ⟨rfl, rfl⟩

/-! ### Host accesses -/

/-- An aligned 4-byte write of the window reaches the engine (R52, R66). -/
theorem hostAccess_write (off : Nat) (v : Word) (h : off < 0x200) (h4 : off % 4 = 0) :
    hostAccess (.write (s.params.base + off) 4 v) s = .next (memWrite (.ofNat 9 off) v s) := by
  have h9 : off % 512 = off := by omega
  simp [hostAccess, Access.addr, Access.size, windowOffset?_base_add _ _ h, admitted, admittedAccess, h9, h4]

/-- An aligned 4-byte read of the window reaches the engine, and the host sees its answer (R52, R67). -/
theorem hostAccess_read (off : Nat) (h : off < 0x200) (h4 : off % 4 = 0) :
    hostAccess (.read (s.params.base + off) 4) s =
      .next (see (.value (memRead (.ofNat 9 off) s).1) (memRead (.ofNat 9 off) s).2) := by
  have h9 : off % 512 = off := by omega
  simp [hostAccess, Access.addr, Access.size, windowOffset?_base_add _ _ h, admitted, admittedAccess, h9, h4]

/-- While BUSY = 1 an access of the window answers, and changes at most ERRCODE, the host's record and the count of free values (R67, R199). -/
theorem hostAccess_busy (a : Access) (hb : s.busy = true) (hw : (windowOffset? s.params.base a.addr).isSome = true) :
    ∃ e seen draws, hostAccess a s = .next (((s.setErrcode e).setSeen seen).setDraws draws) := by
  obtain ⟨off, ho⟩ := Option.isSome_iff_exists.1 hw
  simp only [hostAccess, ho]
  split
  · cases a with
    | read addr size =>
      rcases memRead_state s off with h | ⟨h, _⟩
      · exact ⟨s.errcode, s.seen ++ [.value (memRead off s).1], s.draws, by simp only [admittedAccess, see_eq, h]; rfl⟩
      · exact ⟨s.errcode, s.seen ++ [.value (memRead off s).1], s.draws + 1, by simp only [admittedAccess, see_eq, h]; rfl⟩
    | write addr size v =>
      obtain ⟨e, he⟩ := memWrite_busy s off v hb
      exact ⟨e, s.seen, s.draws, by simp only [admittedAccess, he]; rfl⟩
  · exact ⟨s.errcode, s.seen ++ [.busErrResponse], s.draws, rfl⟩

/-! ### Reset -/

/-- After a reset event every register has its reset value; the model's own fields stay, but for what the host saw (R220). -/
theorem resetEvent_eq (n : Nat) : resetEvent n s =
    { State.reset with
      params := s.params, inputs := s.inputs, seen := s.seen ++ List.replicate n .busErrResponse, draws := s.draws } := rfl

end Sys2Proof.Machine
end

