-- ==== Sys2Proof/Laws/Encoding.lean ====
section
/-! SUPPORT. The fields of a command word, what a row's mask and match select, and the words of the encoder. -/

namespace Sys2Proof

/-! ### Fields of a word -/

theorem opcField_getLsbD (w : Word) (j : Nat) : (opcField w).getLsbD j = (decide (j < 8) && w.getLsbD (24 + j)) := by
  simp [opcField]

theorem opcAppend_getLsbD (opc : Byte) (f : BitVec 24) (j : Nat) :
    (opc ++ f).getLsbD j = if j < 24 then f.getLsbD j else opc.getLsbD (j - 24) := by
  simp only [BitVec.getLsbD_append]

/-- OPC is bits [31:24] of a word built as OPC and fields (R71). -/
@[simp] theorem opcField_append (opc : Byte) (f : BitVec 24) : opcField (opc ++ f) = opc := by
  apply BitVec.eq_of_getLsbD_eq
  intro j hj
  rw [opcField_getLsbD, opcAppend_getLsbD, if_neg (by omega)]
  simp [hj]

/-- A word is its OPC followed by its low 24 bits. -/
theorem opcField_append_low (w : Word) : opcField w ++ w.extractLsb' 0 24 = w := by
  apply BitVec.eq_of_getLsbD_eq
  intro j hj
  rw [opcAppend_getLsbD, opcField_getLsbD]
  split
  · simp [*]
  · have h : j - 24 < 8 := by omega
    have e : 24 + (j - 24) = j := by omega
    simp [h, e]

@[simp] theorem opcField_encode (i : Instr) : opcField (encode i) = i.opc := opcField_append _ _

/-- The encoding as a number: OPC times 2^24, plus the operand fields (R85). -/
theorem encode_toNat (i : Instr) : (encode i).toNat = i.opc.toNat * 2 ^ 24 + i.fields.toNat := by
  rw [encode, BitVec.toNat_append, Nat.shiftLeft_eq, Nat.mul_comm, ← Nat.two_pow_add_eq_or_of_lt i.fields.isLt]

theorem encode_getLsbD (i : Instr) {j : Nat} (h : j < 24) : (encode i).getLsbD j = i.fields.getLsbD j := by
  rw [encode, opcAppend_getLsbD, if_pos h]

/-! ### Masks -/

/-- The number of operand bits of a format, which are the low bits of the word (R72). -/
def Format.operandBits : Format → Nat
  | .n => 0
  | .r => 4
  | .m => 5
  | .g => 16

theorem Format.operandBits_le (f : Format) : f.operandBits ≤ 16 := by cases f <;> decide

/-- The mask has a 1 at OPC and at every reserved bit, and a 0 at each operand bit (R77). -/
theorem Format.mask_getLsbD (f : Format) (j : Nat) : f.mask.getLsbD j = decide (f.operandBits ≤ j ∧ j < 32) := by
  by_cases hj : j < 32
  · have : ∀ f : Format, ∀ k : Fin 32, f.mask.getLsbD k.val = decide (f.operandBits ≤ k.val ∧ k.val < 32) := by
      intro f; cases f <;> decide
    exact this f ⟨j, hj⟩
  · rw [BitVec.getLsbD_of_ge _ _ (by omega)]
    simp [hj]

theorem Row.pattern_getLsbD (row : Row) (j : Nat) :
    row.pattern.getLsbD j = if j < 24 then false else row.opc.getLsbD (j - 24) := by
  rw [Row.pattern, opcAppend_getLsbD]
  simp

/-- `word & mask = match` says that the word has the row's OPC and that every reserved bit is 0 (R77, R80). -/
theorem Row.selects_iff (row : Row) (w : Word) : w &&& row.mask = row.pattern ↔
    opcField w = row.opc ∧ ∀ j, row.format.operandBits ≤ j → j < 24 → w.getLsbD j = false := by
  have hle := row.format.operandBits_le
  constructor
  · intro h
    have hb : ∀ j, (w.getLsbD j && decide (row.format.operandBits ≤ j ∧ j < 32)) =
        if j < 24 then false else row.opc.getLsbD (j - 24) := by
      intro j
      rw [← Row.pattern_getLsbD, ← h, BitVec.getLsbD_and, Row.mask, Format.mask_getLsbD]
    refine ⟨?_, ?_⟩
    · apply BitVec.eq_of_getLsbD_eq
      intro j hj
      have := hb (24 + j)
      rw [if_neg (by omega), Nat.add_sub_cancel_left] at this
      rw [opcField_getLsbD, ← this]
      have h1 : row.format.operandBits ≤ 24 + j := by omega
      have h2 : 24 + j < 32 := by omega
      simp [hj, h1, h2]
    · intro j h1 h2
      have := hb j
      have h3 : j < 32 := by omega
      simpa [h1, h2, h3] using this
  · rintro ⟨ho, hr⟩
    apply BitVec.eq_of_getLsbD_eq
    intro j hj
    rw [BitVec.getLsbD_and, Row.mask, Format.mask_getLsbD, Row.pattern_getLsbD]
    split
    · by_cases h1 : row.format.operandBits ≤ j
      · simp [hr j h1 ‹_›]
      · simp [h1]
    · have e : 24 + (j - 24) = j := by omega
      have h1 : row.format.operandBits ≤ j := by omega
      have h2 : j - 24 < 8 := by omega
      rw [← ho, opcField_getLsbD, e]
      simp [h1, hj, h2]

/-! ### Rows -/

/-- No two rows have one OPC (R78). -/
theorem opcodeMap_opcs_nodup : (opcodeMap.map Row.opc).Nodup := by decide

theorem opcodeRow?_mem {opc : Byte} {row : Row} (h : opcodeRow? opc = some row) : row ∈ opcodeMap ∧ row.opc = opc := by
  refine ⟨List.mem_of_find?_eq_some h, ?_⟩
  have := List.find?_some h
  simpa using this

theorem opcodeRow?_of_mem {row : Row} (h : row ∈ opcodeMap) : opcodeRow? row.opc = some row := by
  simp only [opcodeMap, controlRows, roundRows, modeRows, fieldRows, List.cons_append, List.nil_append,
    List.mem_cons, List.not_mem_nil, or_false] at h
  rcases h with h | h | h | h | h | h | h | h | h | h | h | h | h | h | h | h | h <;> subst h <;> rfl

theorem decode_of_row {w : Word} {row : Row} (h : row ∈ opcodeMap) (ho : opcField w = row.opc) :
    decode w = if w &&& row.mask = row.pattern then .ok (row.build w) else .error .reservedNonzero := by
  rw [decode, ho, opcodeRow?_of_mem h]

/-- What a decoded word is: a row of the map selects it, and the command is that row's. -/
theorem decode_eq_ok {w : Word} {i : Instr} (h : decode w = .ok i) :
    ∃ row ∈ opcodeMap, w &&& row.mask = row.pattern ∧ i = row.build w := by
  rw [decode] at h
  split at h
  · cases h
  · rename_i row hrow
    split at h
    · cases h
      exact ⟨row, (opcodeRow?_mem hrow).1, ‹_›, rfl⟩
    · cases h

/-- The row of a command. -/
def Instr.row : Instr → Row
  | .nop => ⟨"nop", 0x00, .n, fun _ => .nop⟩
  | .keyexp => ⟨"keyexp", 0x01, .n, fun _ => .keyexp⟩
  | .subb => ⟨"subb", 0x10, .n, fun _ => .subb⟩
  | .isubb => ⟨"isubb", 0x11, .n, fun _ => .isubb⟩
  | .shrow => ⟨"shrow", 0x12, .n, fun _ => .shrow⟩
  | .ishrow => ⟨"ishrow", 0x13, .n, fun _ => .ishrow⟩
  | .mixcol => ⟨"mixcol", 0x14, .n, fun _ => .mixcol⟩
  | .imixcol => ⟨"imixcol", 0x15, .n, fun _ => .imixcol⟩
  | .ark _ => ⟨"ark", 0x16, .r, fun w => .ark (roundField w)⟩
  | .encblk => ⟨"encblk", 0x18, .n, fun _ => .encblk⟩
  | .decblk => ⟨"decblk", 0x19, .n, fun _ => .decblk⟩
  | .ecbenc _ => ⟨"ecbenc", 0x20, .m, fun w => .ecbenc (nbytesField w)⟩
  | .ecbdec _ => ⟨"ecbdec", 0x21, .m, fun w => .ecbdec (nbytesField w)⟩
  | .cbcenc _ => ⟨"cbcenc", 0x22, .m, fun w => .cbcenc (nbytesField w)⟩
  | .cbcdec _ => ⟨"cbcdec", 0x23, .m, fun w => .cbcdec (nbytesField w)⟩
  | .ctrxor _ => ⟨"ctrxor", 0x24, .m, fun w => .ctrxor (nbytesField w)⟩
  | .gfmul _ _ => ⟨"gfmul", 0x30, .g, fun w => .gfmul (aField w) (bField w)⟩

theorem Instr.row_mem (i : Instr) : i.row ∈ opcodeMap := by
  cases i <;> simp [Instr.row, opcodeMap, controlRows, roundRows, modeRows, fieldRows]

theorem Instr.row_opc (i : Instr) : i.row.opc = i.opc := by cases i <;> rfl

/-! ### Operand fields of an encoded command -/

theorem zeroAppend_getLsbD {m n : Nat} (x : BitVec n) (j : Nat) : (0#m ++ x).getLsbD j = (decide (j < n) && x.getLsbD j) := by
  rw [BitVec.getLsbD_append]
  by_cases h : j < n
  · simp [h]
  · simp [h]

theorem arkFields_getLsbD (r : BitVec 4) (j : Nat) : (Instr.ark r).fields.getLsbD j = (decide (j < 4) && r.getLsbD j) :=
  zeroAppend_getLsbD (m := 20) r j

theorem modeFields_getLsbD (n : BitVec 5) (j : Nat) :
    (Instr.ecbenc n).fields.getLsbD j = (decide (j < 5) && n.getLsbD j) :=
  zeroAppend_getLsbD (m := 19) n j

theorem gfmulFields_getLsbD (a b : Byte) (j : Nat) : (Instr.gfmul a b).fields.getLsbD j =
    if j < 8 then b.getLsbD j else (decide (j < 16) && a.getLsbD (j - 8)) := by
  have h : (Instr.gfmul a b).fields.getLsbD j = ((0#8 ++ a) ++ b).getLsbD j := rfl
  rw [h, BitVec.getLsbD_append, zeroAppend_getLsbD]
  by_cases h1 : j < 8
  · simp [h1]
  · by_cases h2 : j < 16
    · have : j - 8 < 8 := by omega
      simp [h1, h2, this]
    · have : ¬(j - 8 < 8) := by omega
      simp [h1, h2, this]

/-- Every bit of an encoded command above its operand bits, below OPC, is 0 (R72, R80). -/
theorem encode_reserved_zero (i : Instr) (j : Nat) (h1 : i.row.format.operandBits ≤ j) (h2 : j < 24) :
    (encode i).getLsbD j = false := by
  rw [encode_getLsbD i h2]
  cases i <;> simp only [Instr.row, Format.operandBits] at h1
  case ark r => rw [arkFields_getLsbD]; simp; omega
  case ecbenc n => rw [modeFields_getLsbD]; simp; omega
  case ecbdec n => exact (modeFields_getLsbD n j).trans (by simp; omega)
  case cbcenc n => exact (modeFields_getLsbD n j).trans (by simp; omega)
  case cbcdec n => exact (modeFields_getLsbD n j).trans (by simp; omega)
  case ctrxor n => exact (modeFields_getLsbD n j).trans (by simp; omega)
  case gfmul a b => rw [gfmulFields_getLsbD, if_neg (by omega)]; simp; omega
  all_goals simp [Instr.fields]

/-- The row of a command selects its word. -/
theorem encode_selected (i : Instr) : encode i &&& i.row.mask = i.row.pattern :=
  (Row.selects_iff _ _).2 ⟨by rw [opcField_encode, Instr.row_opc], encode_reserved_zero i⟩

end Sys2Proof
end

