-- ==== Sys2Proof/Laws/Exec.lean ====
section
/-! SUPPORT. What each command's meaning answers, as an equation over the named updates; that every command answers a next state; and
what no command changes. -/

namespace Sys2Proof.Machine

variable (s : State)

@[simp] theorem exec_nop : exec .nop s = .next s := rfl

@[simp] theorem exec_keyexp : exec .keyexp s = .next ((s.setRk (keyExpansion s.key)).setRkv true) := rfl

@[simp] theorem exec_subb : exec .subb s = .next (s.setStateReg (subBytes s.stateReg)) := rfl

@[simp] theorem exec_isubb : exec .isubb s = .next (s.setStateReg (invSubBytes s.stateReg)) := rfl

@[simp] theorem exec_shrow : exec .shrow s = .next (s.setStateReg (shiftRows s.stateReg)) := rfl

@[simp] theorem exec_ishrow : exec .ishrow s = .next (s.setStateReg (invShiftRows s.stateReg)) := rfl

@[simp] theorem exec_mixcol : exec .mixcol s = .next (s.setStateReg (mixColumns s.stateReg)) := rfl

@[simp] theorem exec_imixcol : exec .imixcol s = .next (s.setStateReg (invMixColumns s.stateReg)) := rfl

theorem exec_ark_legal {round : BitVec 4} (h : round.toNat ≤ 10) :
    exec (.ark round) s = .next ((ensureRoundKeys s).setStateReg
      (addRoundKey s.stateReg ((ensureRoundKeys s).rk[round.toNat]'(by omega)))) := by
  simp [exec, execArk, h]

theorem exec_ark_illegal {round : BitVec 4} (h : 10 < round.toNat) :
    exec (.ark round) s = .next (recordError .roundRange s) := by
  simp [exec, execArk, h]

@[simp] theorem exec_encblk : exec .encblk s =
    .next ((ensureRoundKeys s).setStateReg (cipher s.stateReg (ensureRoundKeys s).rk)) := by
  simp [exec, execEncblk]

@[simp] theorem exec_decblk : exec .decblk s =
    .next ((ensureRoundKeys s).setStateReg (invCipher s.stateReg (ensureRoundKeys s).rk)) := by
  simp [exec, execDecblk]

theorem exec_ecbenc_full : exec (.ecbenc 16) s =
    .next ((ensureRoundKeys s).setDout (cipher s.din (ensureRoundKeys s).rk)) := by
  simp [exec, execEcbenc, fullBlockMode_of_full, ecbEncrypt]

theorem exec_ecbdec_full : exec (.ecbdec 16) s =
    .next ((ensureRoundKeys s).setDout (invCipher s.din (ensureRoundKeys s).rk)) := by
  simp [exec, execEcbdec, fullBlockMode_of_full, ecbDecrypt]

theorem exec_cbcenc_full : exec (.cbcenc 16) s =
    .next (((ensureRoundKeys s).setDout (cipher (s.din.xor s.chain) (ensureRoundKeys s).rk)).setChain
      (cipher (s.din.xor s.chain) (ensureRoundKeys s).rk)) := by
  simp [exec, execCbcenc, fullBlockMode_of_full, cbcEncrypt]

theorem exec_cbcdec_full : exec (.cbcdec 16) s =
    .next (((ensureRoundKeys s).setDout ((invCipher s.din (ensureRoundKeys s).rk).xor s.chain)).setChain s.din) := by
  simp [exec, execCbcdec, fullBlockMode_of_full, cbcDecrypt]

theorem exec_ctrxor_legal {n : BitVec 5} (h : 1 ≤ n.toNat ∧ n.toNat ≤ 16) : exec (.ctrxor n) s =
    .next (((ensureRoundKeys s).setDout (ctrOutput n.toNat s.din
      (cipher (ctrBlock s.params.ctrOrder s.nonce s.ctr) (ensureRoundKeys s).rk))).setCtr (s.ctr + 1)) := by
  simp [exec, execCtrxor, checked_of_legal, (ctrLength_iff n).2 h, ctrXor]

theorem exec_ecbenc_illegal {n : BitVec 5} (h : n ≠ 16) : exec (.ecbenc n) s = .next (recordError .length s) :=
  congrArg Host.Outcome.next (fullBlockMode_of_not_full s h _)

theorem exec_ecbdec_illegal {n : BitVec 5} (h : n ≠ 16) : exec (.ecbdec n) s = .next (recordError .length s) :=
  congrArg Host.Outcome.next (fullBlockMode_of_not_full s h _)

theorem exec_cbcenc_illegal {n : BitVec 5} (h : n ≠ 16) : exec (.cbcenc n) s = .next (recordError .length s) :=
  congrArg Host.Outcome.next (fullBlockMode_of_not_full s h _)

theorem exec_cbcdec_illegal {n : BitVec 5} (h : n ≠ 16) : exec (.cbcdec n) s = .next (recordError .length s) :=
  congrArg Host.Outcome.next (fullBlockMode_of_not_full s h _)

theorem exec_ctrxor_illegal {n : BitVec 5} (h : n.toNat = 0 ∨ 16 < n.toNat) :
    exec (.ctrxor n) s = .next (recordError .length s) := by
  have : ctrLength n = false := by
    rw [Bool.eq_false_iff]; intro hc; rw [ctrLength_iff] at hc; omega
  simp [exec, execCtrxor, checked, this]

@[simp] theorem exec_gfmul (a b : Byte) : exec (.gfmul a b) s = .next (s.setGfres (multiply a b)) := rfl

/-! ### Every command answers a next state -/

/-- No command stops: `exec` answers a next state on every operand in every state. -/
theorem exec_answers_next (i : Instr) : ∃ t, exec i s = .next t := by
  cases i
  case ark round =>
    by_cases h : round.toNat ≤ 10
    · exact ⟨_, exec_ark_legal s h⟩
    · exact ⟨_, exec_ark_illegal s (by omega)⟩
  all_goals exact ⟨_, rfl⟩

/-- Either the operands are legal and the command has its effect, or it records one error and does nothing else (R199). -/
theorem exec_of_not_wellFormed {i : Instr} (h : i.wellFormed = false) :
    exec i s = .next (recordError (match i with | .ark _ => .roundRange | _ => .length) s) := by
  cases i <;> simp only [Instr.wellFormed, Bool.true_eq_false, beq_eq_false_iff_ne, decide_eq_false_iff_not,
    Bool.and_eq_false_iff] at h
  case ark round => exact exec_ark_illegal s (by omega)
  case ecbenc n => exact exec_ecbenc_illegal s h
  case ecbdec n => exact exec_ecbdec_illegal s h
  case cbcenc n => exact exec_cbcenc_illegal s h
  case cbcdec n => exact exec_cbcdec_illegal s h
  case ctrxor n => exact exec_ctrxor_illegal s (by omega)

/-- What no command writes: KEY, DIN, NONCE, BUSY, PENDING, and the model's own fields (R39). -/
structure CommandFrame (s t : State) : Prop where
  key : t.key = s.key
  din : t.din = s.din
  nonce : t.nonce = s.nonce
  busy : t.busy = s.busy
  pending : t.pending = s.pending
  params : t.params = s.params
  inputs : t.inputs = s.inputs
  seen : t.seen = s.seen
  draws : t.draws = s.draws

theorem exec_frame {i : Instr} {s t : State} (h : exec i s = .next t) : CommandFrame s t := by
  by_cases hw : i.wellFormed = true
  · cases i <;> simp only [Instr.wellFormed, beq_iff_eq, decide_eq_true_eq, Bool.and_eq_true] at hw
    case ark round => rw [exec_ark_legal s hw] at h; cases h; constructor <;> simp
    case ecbenc n => subst hw; rw [exec_ecbenc_full] at h; cases h; constructor <;> simp
    case ecbdec n => subst hw; rw [exec_ecbdec_full] at h; cases h; constructor <;> simp
    case cbcenc n => subst hw; rw [exec_cbcenc_full] at h; cases h; constructor <;> simp
    case cbcdec n => subst hw; rw [exec_cbcdec_full] at h; cases h; constructor <;> simp
    case ctrxor n => rw [exec_ctrxor_legal s hw] at h; cases h; constructor <;> simp
    all_goals (simp only [exec_nop, exec_keyexp, exec_subb, exec_isubb, exec_shrow, exec_ishrow, exec_mixcol,
      exec_imixcol, exec_encblk, exec_decblk, exec_gfmul] at h; cases h; constructor <;> simp)
  · rw [exec_of_not_wellFormed s (by simpa using hw)] at h
    cases h; constructor <;> simp

end Sys2Proof.Machine
end

