-- ==== Sys2Proof/Laws/Errors.lean ====
section
/-! SUPPORT. The decoder against the spec's tables: the unassigned opcodes (R79), the reserved bits (R72, R80), and the errors that
executing a word raises (R200). -/

namespace Sys2Proof.Machine

/-- OPC selects no row exactly if it is one of the unassigned values (R78, R79). -/
theorem opcodeRow?_eq_none_iff (opc : Byte) : opcodeRow? opc = none ↔ unassignedOpc opc.toNat = true := by
  have h : ∀ n : Fin 256, (opcodeRow? (BitVec.ofNat 8 n.val)).isNone = unassignedOpc n.val := by decide +kernel
  have := h ⟨opc.toNat, opc.isLt⟩
  simp only [BitVec.ofNat_toNat, BitVec.setWidth_eq] at this
  rw [← this, Option.isNone_iff_eq_none]

theorem row_of_assigned {w : Word} (h : unassignedOpc (opcField w).toNat = false) :
    ∃ row ∈ opcodeMap, row.opc = opcField w := by
  match hrow : opcodeRow? (opcField w) with
  | none => rw [opcodeRow?_eq_none_iff, h] at hrow; cases hrow
  | some row => exact ⟨row, opcodeRow?_mem hrow⟩

theorem assigned_of_row {row : Row} (h : row ∈ opcodeMap) : unassignedOpc row.opc.toNat = false := by
  have := opcodeRow?_of_mem h
  rw [Bool.eq_false_iff]
  intro hu
  rw [← opcodeRow?_eq_none_iff, this] at hu
  cases hu

/-- The operand bits of a row's format are those of its OPC in R72's table. -/
theorem operandBits_of_row {row : Row} (h : row ∈ opcodeMap) : operandBits row.opc.toNat = row.format.operandBits := by
  simp only [opcodeMap, controlRows, roundRows, modeRows, fieldRows, List.cons_append, List.nil_append,
    List.mem_cons, List.not_mem_nil, or_false] at h
  rcases h with h | h | h | h | h | h | h | h | h | h | h | h | h | h | h | h | h <;> subst h <;> decide

/-- A word with a row's OPC fails the row's mask exactly if one of its reserved bits is 1 (R77, R80). -/
theorem not_selected_iff {w : Word} {row : Row} (h : row ∈ opcodeMap) (ho : opcField w = row.opc) :
    ¬(w &&& row.mask = row.pattern) ↔ reservedBitSet w := by
  rw [Row.selects_iff, reservedBitSet, ho, operandBits_of_row h]
  constructor
  · intro hn
    by_contra hc
    exact hn ⟨rfl, fun j h1 h2 => by
      by_contra hb
      exact hc ⟨j, h1, h2, by simpa using hb⟩⟩
  · rintro ⟨j, h1, h2, h3⟩ ⟨_, hz⟩
    rw [hz j h1 h2] at h3
    cases h3

theorem decode_eq_illegal_iff (w : Word) : decode w = .error .illegalOpcode ↔ unassignedOpc (opcField w).toNat = true := by
  rw [← opcodeRow?_eq_none_iff, decode]
  split
  · simp [*]
  · split <;> simp [*]

theorem decode_eq_reserved_iff (w : Word) :
    decode w = .error .reservedNonzero ↔ unassignedOpc (opcField w).toNat = false ∧ reservedBitSet w := by
  constructor
  · intro h
    have hu : unassignedOpc (opcField w).toNat = false := by
      rw [Bool.eq_false_iff]
      intro hu
      rw [(decode_eq_illegal_iff w).2 hu] at h
      cases h
    obtain ⟨row, hr, ho⟩ := row_of_assigned hu
    rw [decode_of_row hr ho.symm] at h
    refine ⟨hu, (not_selected_iff hr ho.symm).1 ?_⟩
    intro hs
    rw [if_pos hs] at h
    cases h
  · rintro ⟨hu, hb⟩
    obtain ⟨row, hr, ho⟩ := row_of_assigned hu
    rw [decode_of_row hr ho.symm, if_neg ((not_selected_iff hr ho.symm).2 hb)]

/-- A word that has an assigned OPC and no reserved bit set is the word of a command. -/
theorem decode_ok_of_no_fault {w : Word} (hu : unassignedOpc (opcField w).toNat = false) (hb : ¬reservedBitSet w) :
    ∃ row ∈ opcodeMap, row.opc = opcField w ∧ decode w = .ok (row.build w) := by
  obtain ⟨row, hr, ho⟩ := row_of_assigned hu
  refine ⟨row, hr, ho, ?_⟩
  rw [decode_of_row hr ho.symm, if_pos]
  by_contra hs
  exact hb ((not_selected_iff hr ho.symm).1 hs)

theorem executeWord_ok {w : Word} {i : Instr} (h : decode w = .ok i) (s : State) : executeWord exec w s = exec i s := by
  simp [executeWord, h]

theorem executeWord_illegal {w : Word} (h : unassignedOpc (opcField w).toNat = true) (s : State) :
    executeWord exec w s = .next (recordError .illegalOpcode s) := by
  simp [executeWord, (decode_eq_illegal_iff w).2 h, decodeErrCode]

theorem executeWord_reserved {w : Word} (hu : unassignedOpc (opcField w).toNat = false) (hb : reservedBitSet w) (s : State) :
    executeWord exec w s = .next (recordError .reservedNonzero s) := by
  simp [executeWord, (decode_eq_reserved_iff w).2 ⟨hu, hb⟩, decodeErrCode]

/-- `Execute` of any word answers a next state. -/
theorem executeWord_answers_next (w : Word) (s : State) : ∃ t, executeWord exec w s = .next t := by
  unfold executeWord
  split
  · exact ⟨_, rfl⟩
  · exact exec_answers_next s _

/-- What `Execute` does: it records an error of the word, or it runs the command the word decodes to. -/
theorem executeWord_cases {w : Word} {s t : State} (h : executeWord exec w s = .next t) :
    (∃ e, t = recordError e s ∧ raises w e) ∨ (∃ i, decode w = .ok i ∧ i.wellFormed = true ∧ exec i s = .next t) := by
  by_cases hu : unassignedOpc (opcField w).toNat = true
  · rw [executeWord_illegal hu] at h
    cases h
    exact .inl ⟨_, rfl, .inl ⟨hu, rfl⟩⟩
  have hu : unassignedOpc (opcField w).toNat = false := by simpa using hu
  by_cases hb : reservedBitSet w
  · rw [executeWord_reserved hu hb] at h
    cases h
    exact .inl ⟨_, rfl, .inr (.inl ⟨hu, hb, rfl⟩)⟩
  obtain ⟨row, hr, ho, hd⟩ := decode_ok_of_no_fault hu hb
  rw [executeWord_ok hd] at h
  by_cases hw : (row.build w).wellFormed = true
  · exact .inr ⟨_, hd, hw, h⟩
  have hw : (row.build w).wellFormed = false := by simpa using hw
  rw [exec_of_not_wellFormed _ hw] at h
  cases h
  refine .inl ⟨_, rfl, ?_⟩
  simp only [opcodeMap, controlRows, roundRows, modeRows, fieldRows, List.cons_append, List.nil_append,
    List.mem_cons, List.not_mem_nil, or_false] at hr
  rcases hr with h | h | h | h | h | h | h | h | h | h | h | h | h | h | h | h | h <;> subst h <;>
    simp only [Instr.wellFormed, Bool.true_eq_false, beq_eq_false_iff_ne, decide_eq_false_iff_not,
      Bool.and_eq_false_iff] at hw
  case inr.inr.inr.inr.inr.inr.inr.inr.inl =>
    exact .inr (.inr (.inl ⟨hu, hb, by rw [← ho]; rfl, by omega, rfl⟩))
  case inr.inr.inr.inr.inr.inr.inr.inr.inr.inr.inr.inr.inr.inr.inr.inl =>
    exact .inr (.inr (.inr (.inr ⟨hu, hb, by rw [← ho]; rfl, by omega, rfl⟩)))
  all_goals
    exact .inr (.inr (.inr (.inl ⟨hu, hb, by rw [← ho]; decide, by rw [← ho]; decide,
      fun e => hw (BitVec.eq_of_toNat_eq e), rfl⟩)))

end Sys2Proof.Machine
end

