-- ==== Sys2Proof/Laws/Field.lean ====
section
/-! SUPPORT. The multiplier is linear in both of its operands, and a fact that XOR preserves holds of every byte if it holds of the
eight powers of two. -/

namespace Sys2Proof

theorem shiftReduce_xor (a b : Byte) : shiftReduce (a ^^^ b) = shiftReduce a ^^^ shiftReduce b := by
  unfold shiftReduce
  simp only [BitVec.getLsbD_xor]
  have h : ∀ x y : Byte, x ^^^ 0x1B#8 ^^^ (y ^^^ 0x1B#8) = x ^^^ y := by
    intro x y
    rw [show x ^^^ 0x1B#8 ^^^ (y ^^^ 0x1B#8) = x ^^^ y ^^^ (0x1B#8 ^^^ 0x1B#8) by ac_rfl]
    simp
  cases a.getLsbD 7 <;> cases b.getLsbD 7 <;> simp [BitVec.shiftLeft_xor_distrib, -BitVec.ofNat_eq_ofNat, h] <;> ac_rfl

/-- XOR over the accumulator and the second operand together passes through the iterations of R100. -/
theorem multiplyFrom_xor_right (n : Nat) (acc acc' a b b' : Byte) :
    multiplyFrom n (acc ^^^ acc') a (b ^^^ b') = multiplyFrom n acc a b ^^^ multiplyFrom n acc' a b' := by
  induction n generalizing acc acc' a b b' with
  | zero => rfl
  | succ n ih =>
    unfold multiplyFrom
    rw [← ih]
    simp only [BitVec.getLsbD_xor, BitVec.ushiftRight_xor_distrib]
    congr 1
    have h : acc ^^^ a ^^^ (acc' ^^^ a) = acc ^^^ acc' := by
      rw [show acc ^^^ a ^^^ (acc' ^^^ a) = acc ^^^ acc' ^^^ (a ^^^ a) by ac_rfl]
      simp
    cases b.getLsbD 0 <;> cases b'.getLsbD 0 <;> simp [h] <;> ac_rfl

/-- XOR over the accumulator and the first operand together passes through the iterations of R100. -/
theorem multiplyFrom_xor_left (n : Nat) (acc acc' a a' b : Byte) :
    multiplyFrom n (acc ^^^ acc') (a ^^^ a') b = multiplyFrom n acc a b ^^^ multiplyFrom n acc' a' b := by
  induction n generalizing acc acc' a a' b with
  | zero => rfl
  | succ n ih =>
    unfold multiplyFrom
    rw [← ih, shiftReduce_xor]
    congr 1
    cases b.getLsbD 0
    · simp
    · simp only [if_true]; ac_rfl

theorem multiply_xor_left (a a' b : Byte) : multiply (a ^^^ a') b = multiply a b ^^^ multiply a' b :=
  multiplyFrom_xor_left 8 0 0 a a' b

/-- A byte is the XOR of the powers of two at its set bits. -/
theorem byte_xor_induction {P : Byte → Prop} (zero : P 0) (xor : ∀ a b, P a → P b → P (a ^^^ b))
    (bit : ∀ i : Fin 8, P (BitVec.ofNat 8 (2 ^ i.val))) (a : Byte) : P a := by
  have pick : ∀ i : Fin 8, P (if a.getLsbD i.val then BitVec.ofNat 8 (2 ^ i.val) else 0) := by
    intro i
    split
    · exact bit i
    · exact zero
  have sum : a = (if a.getLsbD 0 then 1 else 0) ^^^ (if a.getLsbD 1 then 2 else 0) ^^^ (if a.getLsbD 2 then 4 else 0) ^^^
      (if a.getLsbD 3 then 8 else 0) ^^^ (if a.getLsbD 4 then 16 else 0) ^^^ (if a.getLsbD 5 then 32 else 0) ^^^
      (if a.getLsbD 6 then 64 else 0) ^^^ (if a.getLsbD 7 then 128 else 0) := by
    clear pick
    revert a
    decide +kernel
  rw [sum]
  exact xor _ _ (xor _ _ (xor _ _ (xor _ _ (xor _ _ (xor _ _ (xor _ _ (pick 0) (pick 1)) (pick 2)) (pick 3)) (pick 4)) (pick 5))
    (pick 6)) (pick 7)

end Sys2Proof
end

