-- ==== Sys2Proof/Laws/PerInstr.lean ====
section
/-! SUPPORT. Statements made of each command as syntax. -/

namespace Sys2Proof.Laws.Selects

/-- The command's word, masked with its row's `mask`, is its row's `match` (R77, R78). -/
def Statement (i : Instr) : Prop := encode i &&& i.row.mask = i.row.pattern

theorem nop : Statement (Instr.nop) := encode_selected _
theorem keyexp : Statement (Instr.keyexp) := encode_selected _
theorem subb : Statement (Instr.subb) := encode_selected _
theorem isubb : Statement (Instr.isubb) := encode_selected _
theorem shrow : Statement (Instr.shrow) := encode_selected _
theorem ishrow : Statement (Instr.ishrow) := encode_selected _
theorem mixcol : Statement (Instr.mixcol) := encode_selected _
theorem imixcol : Statement (Instr.imixcol) := encode_selected _
theorem ark (round : BitVec 4) : Statement (Instr.ark round) := encode_selected _
theorem encblk : Statement (Instr.encblk) := encode_selected _
theorem decblk : Statement (Instr.decblk) := encode_selected _
theorem ecbenc (nbytes : BitVec 5) : Statement (Instr.ecbenc nbytes) := encode_selected _
theorem ecbdec (nbytes : BitVec 5) : Statement (Instr.ecbdec nbytes) := encode_selected _
theorem cbcenc (nbytes : BitVec 5) : Statement (Instr.cbcenc nbytes) := encode_selected _
theorem cbcdec (nbytes : BitVec 5) : Statement (Instr.cbcdec nbytes) := encode_selected _
theorem ctrxor (nbytes : BitVec 5) : Statement (Instr.ctrxor nbytes) := encode_selected _
theorem gfmul (a b : Byte) : Statement (Instr.gfmul a b) := encode_selected _

end Sys2Proof.Laws.Selects
end

