-- ==== Sys2Proof/Laws/Step.lean ====
section
/-! SUPPORT. The step, once and for all: which event it takes, and everything its next state can be. -/

namespace Sys2Proof.Machine

variable {s t : State}

theorem step_of_engineNext {rest : List Event} (h : engineNext s rest) :
    step s = onNext (executeWord exec s.pending (s.setInputs rest)) finish := by
  obtain ⟨hb, hi | ⟨hi, rfl⟩⟩ := h
  · simp [step, machineStep, hi, runEvent, engineTurn, engineStep, hb]
  · have hs : s.setInputs [] = s := by rw [← hi]; rfl
    rw [hs]
    simp [step, machineStep, hi, engineTurn, engineStep, hb]

theorem step_of_access {a : Access} {rest : List Event} (h : s.inputs = .access a :: rest) :
    step s = hostAccess a (s.setInputs rest) := by
  simp [step, machineStep, h, runEvent]

theorem step_of_reset {n : Nat} {rest : List Event} (h : s.inputs = .reset n :: rest) :
    step s = .next (resetEvent n (s.setInputs rest)) := by
  simp [step, machineStep, h, runEvent]

theorem step_of_idle_turn {rest : List Event} (h : s.inputs = .engine :: rest) (hb : s.busy = false) :
    step s = .next (s.setInputs rest) := by
  simp [step, machineStep, h, runEvent, engineTurn, hb]

theorem step_of_idle (h : s.inputs = []) (hb : s.busy = false) : step s = .next s := by
  simp [step, machineStep, h, engineTurn, hb]

/-- A run of the machine goes on from its first step. -/
theorem core_run_succ (n : Nat) (h : step s = .next t) : core.run (n + 1) s = core.run n t := by
  have h' : core.step s = .next t := h
  simp only [Host.Core.run]
  rw [h']

/-- Everything a step can be that answers a next state. -/
inductive StepCase (s t : State) : Prop where
  /-- The engine executes the pending command (R83). -/
  | executes (rest : List Event) (u : State) (turn : engineNext s rest)
      (run : executeWord exec s.pending (s.setInputs rest) = .next u) (state : t = u.setBusy false)
  /-- The engine is idle (R209). -/
  | idles (rest : List Event) (idle : s.busy = false) (turn : s.inputs = .engine :: rest ∨ (s.inputs = [] ∧ rest = []))
      (state : t = s.setInputs rest)
  /-- Reset (R220). -/
  | resets (n : Nat) (rest : List Event) (turn : s.inputs = .reset n :: rest) (state : t = resetEvent n (s.setInputs rest))
  /-- An admitted host read (R67). -/
  | reads (addr : Nat) (rest : List Event) (off : BitVec 9) (turn : s.inputs = .access (.read addr 4) :: rest)
      (window : windowOffset? s.params.base addr = some off) (aligned : off.toNat % 4 = 0)
      (state : t = see (.value (memRead off (s.setInputs rest)).1) (memRead off (s.setInputs rest)).2)
  /-- An admitted host write (R66). -/
  | writes (addr : Nat) (v : Word) (rest : List Event) (off : BitVec 9) (turn : s.inputs = .access (.write addr 4 v) :: rest)
      (window : windowOffset? s.params.base addr = some off) (aligned : off.toNat % 4 = 0)
      (state : t = memWrite off v (s.setInputs rest))
  /-- A bus error (R53). -/
  | busError (a : Access) (rest : List Event) (turn : s.inputs = .access a :: rest)
      (state : t = see .busErrResponse (s.setInputs rest))

theorem step_cases (h : step s = .next t) : StepCase s t := by
  have turn : ∀ rest, engineNext s rest → StepCase s t := by
    intro rest hn
    obtain ⟨u, hu⟩ := executeWord_answers_next s.pending (s.setInputs rest)
    rw [step_of_engineNext hn, hu] at h
    cases h
    exact .executes rest u hn hu rfl
  match hi : s.inputs with
  | [] =>
    by_cases hb : s.busy = true
    · exact turn [] ⟨hb, .inr ⟨hi, rfl⟩⟩
    · have hb : s.busy = false := by simpa using hb
      rw [step_of_idle hi hb] at h
      cases h
      exact .idles [] hb (.inr ⟨hi, rfl⟩) (by rw [← hi]; rfl)
  | .engine :: rest =>
    by_cases hb : s.busy = true
    · exact turn rest ⟨hb, .inl hi⟩
    · have hb : s.busy = false := by simpa using hb
      rw [step_of_idle_turn hi hb] at h
      cases h
      exact .idles rest hb (.inl hi) rfl
  | .reset n :: rest =>
    rw [step_of_reset hi] at h
    cases h
    exact .resets n rest hi rfl
  | .access a :: rest =>
    rw [step_of_access hi, hostAccess] at h
    split at h
    · cases h
    · rename_i off hoff
      split at h
      · rename_i had
        cases h
        simp only [admitted, Bool.and_eq_true, beq_iff_eq] at had
        cases a with
        | read addr size =>
          obtain ⟨rfl, hal⟩ : size = 4 ∧ off.toNat % 4 = 0 := had
          exact .reads addr rest off hi hoff hal rfl
        | write addr size v =>
          obtain ⟨rfl, hal⟩ : size = 4 ∧ off.toNat % 4 = 0 := had
          exact .writes addr v rest off hi hoff hal rfl
      · cases h
        exact .busError a rest hi rfl

/-- A step stops only on a host access that is outside the window (R50). -/
theorem step_fault {e : Fault} (h : step s = .fault e) :
    ∃ a rest, s.inputs = .access a :: rest ∧ windowOffset? s.params.base a.addr = none ∧ e = .outsideWindow a.addr := by
  have turn : ∀ rest, ¬engineNext s rest := by
    intro rest hn
    obtain ⟨u, hu⟩ := executeWord_answers_next s.pending (s.setInputs rest)
    rw [step_of_engineNext hn, hu] at h
    cases h
  match hi : s.inputs with
  | [] =>
    by_cases hb : s.busy = true
    · exact absurd ⟨hb, .inr ⟨hi, rfl⟩⟩ (turn [])
    · rw [step_of_idle hi (by simpa using hb)] at h; cases h
  | .engine :: rest =>
    by_cases hb : s.busy = true
    · exact absurd ⟨hb, .inl hi⟩ (turn rest)
    · rw [step_of_idle_turn hi (by simpa using hb)] at h; cases h
  | .reset n :: rest => rw [step_of_reset hi] at h; cases h
  | .access a :: rest =>
    rw [step_of_access hi, hostAccess] at h
    split at h
    · rename_i hoff
      cases h
      exact ⟨a, rest, rfl, hoff, rfl⟩
    · cases h

theorem step_not_refused {e : Refusal} : step s ≠ .refused e := by
  intro h
  have turn : ∀ rest, ¬engineNext s rest := by
    intro rest hn
    obtain ⟨u, hu⟩ := executeWord_answers_next s.pending (s.setInputs rest)
    rw [step_of_engineNext hn, hu] at h
    cases h
  match hi : s.inputs with
  | [] =>
    by_cases hb : s.busy = true
    · exact absurd ⟨hb, .inr ⟨hi, rfl⟩⟩ (turn [])
    · rw [step_of_idle hi (by simpa using hb)] at h; cases h
  | .engine :: rest =>
    by_cases hb : s.busy = true
    · exact absurd ⟨hb, .inl hi⟩ (turn rest)
    · rw [step_of_idle_turn hi (by simpa using hb)] at h; cases h
  | .reset n :: rest => rw [step_of_reset hi] at h; cases h
  | .access a :: rest =>
    rw [step_of_access hi, hostAccess] at h
    split at h <;> cases h

end Sys2Proof.Machine
end

