-- ==== Sys2Proof/Tests/Slice0.lean ====
section
/-! SUPPORT. Tests of one step or one function each, with expected values from the spec's words, rules and vectors; and, for every
statement that has hypotheses, concrete inputs that meet them. -/

namespace Sys2Proof.Tests

open Sys2Proof Sys2Proof.Machine

/-! ### Small states -/

/-- The key of V1. -/
def key1 : Block := .ofHex 0x000102030405060708090a0b0c0d0e0f

/-- The plaintext of V1. -/
def plain1 : Block := .ofHex 0x00112233445566778899aabbccddeeff

/-- The ciphertext of V1. -/
def cipher1 : Block := .ofHex 0x69c4e0d86a7b0430d8cdb78070b4c55a

/-- The IV of V32. -/
def iv1 : Block := .ofHex 0x0f0e0d0c0b0a09080706050403020100

/-- Reset, with KEY, STATE, DIN and CHAIN loaded. -/
def loaded : State := { State.reset with key := key1, stateReg := plain1, din := plain1, chain := iv1 }

/-- Reset, with KEY loaded and expanded. -/
def expanded : State := { State.reset with key := key1, rk := keyExpansion key1, rkv := true }

/-- The state of a next outcome; the reset state for another. -/
def nextOr (r : Result) : State :=
  match r with
  | .next s => s
  | .fault _ => .reset
  | .refused _ => .reset

/-- The reason of a fault. -/
def faultOf (r : Result) : Option Fault :=
  match r with
  | .next _ => none
  | .fault e => some e
  | .refused _ => none

/-- The state after the one step that executes the word `w`. -/
def run (w : Nat) (s : State) : State := nextOr (step (s.withFetchWord 32 w))

/-- A command `w` pending, with the events `es` to come. -/
def busyWith (w : Word) (es : List Event) (s : State) : State := { s with pending := w, busy := true, inputs := es }

/-- The state after the one step that takes the host access `a`. -/
def access (a : Access) (s : State) : State := nextOr (step (s.setInputs [.access a]))

/-! ### Well-formedness refuses the values that the spec makes out of range (R73, R74) -/

theorem test_wellFormed_refuses_ark_11 : (Instr.ark 11).wellFormed = false ∧ (Instr.ark 10).wellFormed = true := by decide
theorem test_wellFormed_refuses_ecbenc_15 : (Instr.ecbenc 15).wellFormed = false ∧ (Instr.ecbenc 16).wellFormed = true := by decide
theorem test_wellFormed_refuses_ecbdec_0 : (Instr.ecbdec 0).wellFormed = false ∧ (Instr.ecbdec 16).wellFormed = true := by decide
theorem test_wellFormed_refuses_cbcenc_17 : (Instr.cbcenc 17).wellFormed = false ∧ (Instr.cbcenc 16).wellFormed = true := by decide
theorem test_wellFormed_refuses_cbcdec_31 : (Instr.cbcdec 31).wellFormed = false ∧ (Instr.cbcdec 16).wellFormed = true := by decide
theorem test_wellFormed_refuses_ctrxor_0_and_17 : (Instr.ctrxor 0).wellFormed = false ∧ (Instr.ctrxor 17).wellFormed = false ∧
    (Instr.ctrxor 1).wellFormed = true ∧ (Instr.ctrxor 16).wellFormed = true := by decide

/-! ### Decoding: each command's word written out bit by bit from R72 and R78, as OPC, bits [23:16], [15:8], [7:0] -/

theorem test_decode_nop : decode 0b00000000_00000000_00000000_00000000#32 = .ok .nop := by decide
theorem test_decode_keyexp : decode 0b00000001_00000000_00000000_00000000#32 = .ok .keyexp := by decide
theorem test_decode_subb : decode 0b00010000_00000000_00000000_00000000#32 = .ok .subb := by decide
theorem test_decode_isubb : decode 0b00010001_00000000_00000000_00000000#32 = .ok .isubb := by decide
theorem test_decode_shrow : decode 0b00010010_00000000_00000000_00000000#32 = .ok .shrow := by decide
theorem test_decode_ishrow : decode 0b00010011_00000000_00000000_00000000#32 = .ok .ishrow := by decide
theorem test_decode_mixcol : decode 0b00010100_00000000_00000000_00000000#32 = .ok .mixcol := by decide
theorem test_decode_imixcol : decode 0b00010101_00000000_00000000_00000000#32 = .ok .imixcol := by decide
theorem test_decode_ark : decode 0b00010110_00000000_00000000_00001010#32 = .ok (.ark 10) := by decide
theorem test_decode_encblk : decode 0b00011000_00000000_00000000_00000000#32 = .ok .encblk := by decide
theorem test_decode_decblk : decode 0b00011001_00000000_00000000_00000000#32 = .ok .decblk := by decide
theorem test_decode_ecbenc : decode 0b00100000_00000000_00000000_00010000#32 = .ok (.ecbenc 16) := by decide
theorem test_decode_ecbdec : decode 0b00100001_00000000_00000000_00010000#32 = .ok (.ecbdec 16) := by decide
theorem test_decode_cbcenc : decode 0b00100010_00000000_00000000_00010000#32 = .ok (.cbcenc 16) := by decide
theorem test_decode_cbcdec : decode 0b00100011_00000000_00000000_00010000#32 = .ok (.cbcdec 16) := by decide
theorem test_decode_ctrxor : decode 0b00100100_00000000_00000000_00000101#32 = .ok (.ctrxor 5) := by decide
theorem test_decode_gfmul : decode 0b00110000_00000000_01010111_10000011#32 = .ok (.gfmul 0x57 0x83) := by decide

/-- The opcode table's numbering, and a row shorter than a word: the bits above `nbits` are 0. -/
theorem test_decodeTableWord : decodeTableWord 32 0x1600000A = some (.ark 10) ∧ decodeTableWord 32 0x17000000 = none ∧
    decodeTableWord 16 0x10000 = some .nop := by decide

/-! ### One step of each command (rule examples and 95_test_vectors.md) -/

/-- V56 and R180: NOP touches neither ERRCODE nor RKV; with a reserved bit it raises RESERVED_NONZERO. -/
theorem test_nop : (run 0x00000000 { loaded with errcode := .length }).errcode = .length ∧
    (run 0x00000000 loaded).rkv = false ∧ (run 0x00000001 loaded).errcode = .reservedNonzero := by decide
/-- V20, V67. -/
theorem test_keyexp : (run 0x01000000 loaded).rk[10] = .ofHex 0x13111d7fe3944a17f307a78b4d2b30c5 ∧
    (run 0x01000000 loaded).rkv = true := by decide +kernel
/-- V17. -/
theorem test_subb : (run 0x10000000 { loaded with stateReg := key1 }).stateReg = .ofHex 0x637c777bf26b6fc53001672bfed7ab76 := by
  decide +kernel
/-- V17. -/
theorem test_isubb : (run 0x11000000 { loaded with stateReg := key1 }).stateReg = .ofHex 0x52096ad53036a538bf40a39e81f3d7fb := by
  decide +kernel
/-- V17. -/
theorem test_shrow : (run 0x12000000 { loaded with stateReg := key1 }).stateReg = .ofHex 0x00050a0f04090e03080d02070c01060b := by
  decide +kernel
/-- V17. -/
theorem test_ishrow : (run 0x13000000 { loaded with stateReg := key1 }).stateReg = .ofHex 0x000d0a0704010e0b0805020f0c090603 := by
  decide +kernel
/-- V17. -/
theorem test_mixcol : (run 0x14000000 { loaded with stateReg := key1 }).stateReg = .ofHex 0x02070005060304010a0f080d0e0b0c09 := by
  decide +kernel
/-- V16, columns d4d4d4d5 and 2d26314c. -/
theorem test_mixcol_columns : (run 0x14000000 { loaded with stateReg := .ofHex 0xd4d4d4d52d26314cdb135345f20a225c }).stateReg =
    .ofHex 0xd5d5d7d64d7ebdf88e4da1bc9fdc589d := by decide +kernel
/-- V17. -/
theorem test_imixcol : (run 0x15000000 { loaded with stateReg := key1 }).stateReg = .ofHex 0x0a0f080d0e0b0c090207000506030401 := by
  decide +kernel
/-- V19: the key is expanded first, and round key 10 is the one added. -/
theorem test_ark_10 : (run 0x1600000A loaded).stateReg = .ofHex 0x13003f4ca7c12c607b9e0d3081f6de3a ∧
    (run 0x1600000A loaded).rkv = true := by decide +kernel
/-- V51: ROUND_RANGE comes before any expansion. -/
theorem test_ark_11 : (run 0x1600000B loaded).errcode = .roundRange ∧ (run 0x1600000B loaded).rkv = false ∧
    (run 0x1600000B loaded).stateReg = plain1 := by decide +kernel
/-- V1. -/
theorem test_encblk : (run 0x18000000 loaded).stateReg = cipher1 := by decide +kernel
/-- V68: right after reset. -/
theorem test_encblk_after_reset : (run 0x18000000 State.reset).stateReg = .ofHex 0x66e94bd4ef8a2c3b884cfa59ca342b2e ∧
    (run 0x18000000 State.reset).rkv = true := by decide +kernel
/-- V1, V25. -/
theorem test_decblk : (run 0x19000000 { loaded with stateReg := cipher1 }).stateReg = plain1 := by decide +kernel
/-- V30. -/
theorem test_ecbenc : (run 0x20000010 loaded).dout = cipher1 ∧ (run 0x20000010 loaded).stateReg = plain1 := by decide +kernel
/-- V53. -/
theorem test_ecbenc_15 : (run 0x2000000F loaded).errcode = .length ∧ (run 0x2000000F loaded).rkv = false := by decide +kernel
/-- V57 and R162's example. -/
theorem test_ecbdec : (run 0x21000010 { loaded with din := cipher1 }).dout = plain1 ∧ (run 0x21000010 loaded).rkv = true := by
  decide +kernel
/-- V32. -/
theorem test_cbcenc : (run 0x22000010 loaded).dout = .ofHex 0x16628846f7334843bc7321cc79661680 ∧
    (run 0x22000010 loaded).chain = .ofHex 0x16628846f7334843bc7321cc79661680 := by decide +kernel
/-- V53a. -/
theorem test_cbcenc_0 : (run 0x22000000 loaded).errcode = .length ∧ (run 0x22000000 loaded).chain = iv1 := by decide +kernel
/-- V33: CHAIN takes the ciphertext. -/
theorem test_cbcdec : (run 0x23000010 { loaded with din := .ofHex 0x16628846f7334843bc7321cc79661680 }).dout = plain1 ∧
    (run 0x23000010 { loaded with din := .ofHex 0x16628846f7334843bc7321cc79661680 }).chain =
      .ofHex 0x16628846f7334843bc7321cc79661680 := by decide +kernel
/-- V39, big-endian. -/
theorem test_ctrxor_be : (run 0x24000010 (((loaded.setDin .zero).setNonce ⟨⟨0x00, 0x11, 0x22, 0x33⟩, ⟨0x44, 0x55, 0x66, 0x77⟩⟩).setCtr
    5)).dout = .ofHex 0x50690d5ab7cbb86f98d73fd666f3203c := by decide +kernel
/-- V38, little-endian, and V37b: the wrap. -/
theorem test_ctrxor_le : (run 0x24000010 { loaded with din := .zero, ctr := 0x0102030405060708, params := ⟨.le, 0⟩ }).dout =
    .ofHex 0x472e090bc9cef98aabb903391cc1ff43 ∧
    (run 0x24000010 { loaded with ctr := 0xFFFFFFFFFFFFFFFF }).ctr = 0 := by decide +kernel
/-- V10. -/
theorem test_gfmul : (run 0x30005783 loaded).gfres = 0xC1 := by decide +kernel
/-- V55: a reserved bit of format G. -/
theorem test_gfmul_reserved : (run 0x30015783 loaded).errcode = .reservedNonzero ∧ (run 0x30015783 loaded).gfres = 0x00 := by
  decide +kernel

/-! ### Errors and the window -/

/-- V50, V52, V56a: the priority of errors. -/
theorem test_error_priority : (run 0x17000000 loaded).errcode = .illegalOpcode ∧ (run 0x1600001B loaded).errcode = .reservedNonzero ∧
    (run 0x20000030 loaded).errcode = .reservedNonzero := by decide
/-- The engine step clears BUSY on an error too (R83). -/
theorem test_error_clears_busy : (run 0x17000000 loaded).busy = false ∧ (run 0x18000000 loaded).busy = false := by decide +kernel
/-- V58: the first error is kept. -/
theorem test_error_sticky : (run 0x17000000 { loaded with errcode := .roundRange }).errcode = .roundRange := by decide
/-- V60: a data write while busy is dropped and recorded; STATUS reads 5. -/
theorem test_write_while_busy :
    (access (.write 0x030 4 0xdeadbeef) (busyWith 0x20000010 [] loaded)).errcode = .writeWhileBusy ∧
    (access (.write 0x030 4 0xdeadbeef) (busyWith 0x20000010 [] loaded)).din = plain1 ∧
    regWord .status (access (.write 0x030 4 0xdeadbeef) (busyWith 0x20000010 [] loaded)) = 0x00000005 := by decide
/-- V61: a command while busy is dropped and recorded. -/
theorem test_command_while_busy :
    (access (.write 0x000 4 0x21000010) (busyWith 0x20000010 [] loaded)).errcode = .cmdWhileBusy ∧
    (access (.write 0x000 4 0x21000010) (busyWith 0x20000010 [] loaded)).pending = 0x20000010 := by decide
/-- V62: a dropped KEY write does not clear RKV; an accepted one does, and RK keeps the old keys (V67). -/
theorem test_key_write_clears_rkv : (access (.write 0x010 4 0) (busyWith 0x20000010 [] expanded)).rkv = true ∧
    (access (.write 0x010 4 0) expanded).rkv = false ∧ regWord (.rkw 4) (access (.write 0x010 4 0) expanded) = 0xd6aa74fd := by
  decide +kernel
/-- V65: ERRCODE is cleared even while busy, whatever the data. -/
theorem test_errcode_write_clears :
    (access (.write 0x008 4 0x12345678) { busyWith 0x20000010 [] loaded with errcode := .length }).errcode = .none := by decide
/-- V63: DOUT0 is in ECBENC's write set, so its read draws a free value; V64: STATE0 is not, and reads exactly. -/
theorem test_read_while_busy : (access (.read 0x040 4) (busyWith 0x20000010 [] loaded)).draws = 1 ∧
    (access (.read 0x020 4) (busyWith 0x20000010 [] loaded)).draws = 0 ∧
    (access (.read 0x020 4) (busyWith 0x20000010 [] loaded)).seen = [.value 0x00112233] := by decide
/-- R55's example, its first word. -/
theorem test_key_word_is_big_endian : (access (.write 0x010 4 0x00010203) State.reset).key.byte 0 = 0x00 ∧
    (access (.write 0x010 4 0x00010203) State.reset).key.byte 3 = 0x03 := by decide
/-- R53: a misaligned access and a 1-byte access change nothing; R50: an access past the window does not reach the engine. -/
theorem test_unadmitted : (access (.write 0x011 4 1) loaded).key = key1 ∧
    (access (.read 0x010 1) loaded).seen = [.busErrResponse] ∧
    faultOf (step (loaded.setInputs [.access (.read 0x200 4)])) = some (.outsideWindow 0x200) := by decide
/-- V69: reset discards the pending command. -/
theorem test_reset_while_busy : nextOr (step (busyWith 0x20000010 [.reset 0] loaded)) = State.reset := by decide +kernel
/-- R86: `encround 1` and its refusal outside 1..9. -/
theorem test_pseudo : Pseudo.expand (.encround 1) = some [.subb, .shrow, .mixcol, .ark 1] ∧ Pseudo.expand (.encround 10) = none ∧
    Pseudo.expand (.xtime 0x80) = some [.gfmul 0x80 0x02] := by decide
/-- R87: `wait` ends with a read of STATUS after the engine's step, and `wblk` stores the words of R55. -/
theorem test_host_notation : HostForm.events 0x200 .wait = [.engine, .access (.read 0x204 4)] ∧
    (HostForm.events 0 (.wblk 0x010 key1)).head? = some (.access (.write 0x010 4 0x00010203)) := by decide

/-! ### Witnesses: concrete inputs that meet the hypotheses of each statement -/

theorem witness_EncodeOfDecode : decode 0x1600000A#32 = .ok (.ark 10) := by decide

theorem witness_MatchAndMaskSelect : ∃ row ∈ opcodeMap, row.mnemonic = "ark" ∧ opcField 0x16000010#32 = row.opc ∧
    0x16000010#32 &&& row.mask ≠ row.pattern := by decide

/-- Both forms of the engine's turn. -/
theorem witness_engineNext : engineNext (busyWith 0 [.engine] .reset) [] ∧ engineNext (busyWith 0 [] .reset) [] := by
  exact ⟨⟨rfl, .inl rfl⟩, ⟨rfl, .inr ⟨rfl, rfl⟩⟩⟩

/-- The ends of the five ranges of R79, and their assigned neighbours. -/
theorem witness_IllegalOpcodesRaise : engineNext (busyWith 0x17000000 [] .reset) [] ∧
    [0x02, 0x0F, 0x17, 0x1A, 0x1F, 0x25, 0x2F, 0x31, 0xFF].all unassignedOpc = true ∧
    [0x00, 0x01, 0x10, 0x16, 0x18, 0x19, 0x20, 0x24, 0x30].any unassignedOpc = false :=
  ⟨⟨rfl, .inr ⟨rfl, rfl⟩⟩, by decide, by decide⟩

/-- The lowest and the highest reserved bit of each format. -/
theorem witness_reservedBitSet : reservedBitSet 0x10000001#32 ∧ reservedBitSet 0x10800000#32 ∧ reservedBitSet 0x16000010#32 ∧
    reservedBitSet 0x24000020#32 ∧ reservedBitSet 0x30010000#32 :=
  ⟨⟨0, by decide⟩, ⟨23, by decide⟩, ⟨4, by decide⟩, ⟨5, by decide⟩, ⟨16, by decide⟩⟩

theorem witness_ReservedBitsRaise : engineNext (busyWith 0x16000010 [] .reset) [] ∧
    unassignedOpc (opcField 0x16000010#32).toNat = false ∧ reservedBitSet 0x16000010#32 :=
  ⟨⟨rfl, .inr ⟨rfl, rfl⟩⟩, by decide, ⟨4, by decide⟩⟩

/-- A word for each `reservedRaises`: its OPC and a bit at or above the lowest reserved one. -/
theorem witness_reservedRaises :
    ([0x00, 0x01, 0x10, 0x11, 0x12, 0x13, 0x14, 0x15, 0x18, 0x19] : List Byte).all
      (fun opc => opcField (opc ++ 1#24) == opc && (opc ++ 1#24).getLsbD 0) = true ∧
    (opcField 0x16000010#32 = 0x16 ∧ (0x16000010#32).getLsbD 4 = true) ∧
    ([0x20, 0x21, 0x22, 0x23, 0x24] : List Byte).all
      (fun opc => opcField (opc ++ 32#24) == opc && (opc ++ 32#24).getLsbD 5) = true ∧
    (opcField 0x30010000#32 = 0x30 ∧ (0x30010000#32).getLsbD 16 = true) := by decide

theorem witness_OnlyNopHasNoEffect : opcField 0x00800000#32 = 0x00 ∧ 0x00800000#32 ≠ 0x00000000#32 := by decide

/-- No reserved bit is set in these words of formats R and M. -/
theorem noReserved (w : Word) (h : (List.range 24).all (fun j => j < operandBits (opcField w).toNat || !w.getLsbD j) = true) :
    ¬reservedBitSet w := by
  rintro ⟨j, h1, h2, h3⟩
  have := List.all_eq_true.1 h j (List.mem_range.2 h2)
  simp [h3] at this
  omega

/-- A word for each error of R200, and one that raises none. -/
theorem witness_raises : raises 0x17000000#32 .illegalOpcode ∧ raises 0x1600001B#32 .reservedNonzero ∧
    raises 0x1600000F#32 .roundRange ∧ raises 0x2000000F#32 .length ∧ raises 0x24000011#32 .length :=
  ⟨.inl (by decide), .inr (.inl ⟨by decide, ⟨4, by decide⟩, rfl⟩),
   .inr (.inr (.inl ⟨by decide, noReserved _ (by decide), by decide, by decide, rfl⟩)),
   .inr (.inr (.inr (.inl ⟨by decide, noReserved _ (by decide), by decide, by decide, by decide, rfl⟩))),
   .inr (.inr (.inr (.inr ⟨by decide, noReserved _ (by decide), by decide, by decide, rfl⟩)))⟩

theorem witness_raises_none : ∀ e, ¬raises 0x24000010#32 e := by
  intro e h
  rcases h with ⟨h, _⟩ | ⟨_, h, _⟩ | ⟨_, _, h, _⟩ | ⟨_, _, _, h, _⟩ | ⟨_, _, _, h, _⟩
  · exact absurd h (by decide)
  · exact noReserved 0x24000010#32 (by decide) h
  · exact absurd h (by decide)
  · exact absurd h (by decide)
  · exact absurd h (by decide)

theorem witness_ErrorPriority : ((State.reset.setInputs [.access (.read 0 4), .engine]).inputs = [.access (.read 0 4), .engine]) ∧
    ErrCode.cmdWhileBusy ≠ .none := by decide

/-- The ends of the range of round, and a line of each format that is warned of, at the ends of its ranges. -/
theorem witness_AssemblerLinesAndPseudoInstructions : (1 ≤ 1 ∧ 1 ≤ 9) ∧ (1 ≤ 9 ∧ 9 ≤ 9) ∧
    [AsmLine.ark 11, .ark 15, .ecbenc 0, .ecbdec 15, .cbcenc 17, .cbcdec 31, .ctrxor 0, .ctrxor 17, .ctrxor 31].map warns =
      List.replicate 9 true ∧
    [AsmLine.ark 10, .ark 16, .ecbenc 16, .cbcdec 32, .ctrxor 1, .ctrxor 16, .gfmul 256 0, .word 0x1600000B, .subb].map warns =
      List.replicate 9 false := by
  decide

theorem witness_StepRunsDecodedCommand : engineNext (busyWith 0x1600000A [.engine, .reset 0] .reset) [.reset 0] ∧
    decode (busyWith 0x1600000A [.engine, .reset 0] .reset).pending = .ok (.ark 10) :=
  ⟨⟨rfl, .inl rfl⟩, by decide⟩

theorem witness_StepTakesTheNextEvent : (State.reset.setInputs [.engine]).inputs = [.engine] ∧
    (State.reset.setInputs [.engine]).busy = false ∧ State.reset.inputs = [] ∧ State.reset.busy = false := by decide

/-- The first and the last byte of the window, for a window that does not start at 0. -/
theorem witness_PendingCommandCompletes : safeSchedule (busyWith 0x18000000 [.access (.read 0x200 4), .access (.write 0x3FF 1 7), .engine,
    .reset 2] { State.reset with params := ⟨.be, 0x200⟩ }) = true := by decide

/-- A pending command with two accesses before the engine's turn and no reset. -/
theorem witness_PendingCommandCompletes_executed :
    let s := busyWith 0x18000000 [.access (.read 0x004 4), .access (.write 0x010 4 7), .engine] .reset
    safeSchedule s = true ∧ s.busy = true ∧ ∀ n, Event.reset n ∉ s.inputs :=
  ⟨by decide, rfl, fun n h => by simp [busyWith] at h⟩

/-- The first command after reset uses round keys and has a legal operand. -/
theorem witness_ResetRegisterValues : (Instr.ctrxor 1).wellFormed = true ∧ usesRoundKeys (.ctrxor 1) = true ∧
    State.reset.rkv = false := by decide

/-- A state with RKV = 1 that meets the invariant, and its step. -/
theorem witness_StepKeepsInvariant : Inv expanded ∧ expanded.rkv = true ∧
    ∃ t, step (busyWith 0x18000000 [] expanded) = .next t :=
  ⟨⟨fun _ => rfl, by decide⟩, rfl, ⟨_, rfl⟩⟩

theorem witness_keysCurrent : keysCurrent State.reset ∧ keysCurrent expanded ∧ expanded.rkv = true ∧ keysCurrent loaded :=
  ⟨fun h => absurd h (by decide), fun _ => rfl, rfl, fun h => absurd h (by decide)⟩

theorem witness_ResetEventRestoresAndDiscards : (busyWith 0x20000010 [.reset 1, .engine] loaded).inputs = [.reset 1, .engine] := rfl

/-- No register of this state has its reset value, so that the next step, a reset, changes every one of them. -/
def dirty : State :=
  { expanded with stateReg := plain1, din := plain1, dout := plain1, chain := iv1, nonce := ⟨⟨1, 2, 3, 4⟩, ⟨5, 6, 7, 8⟩⟩, ctr := 9,
                  gfres := 0xC1, errcode := .length, busy := true, pending := 0x20000010, inputs := [.reset 0] }

theorem witness_WritersOfEachRegister_reset : (nextOr (step dirty)).key ≠ dirty.key ∧ (nextOr (step dirty)).rk ≠ dirty.rk ∧
    (nextOr (step dirty)).rkv ≠ dirty.rkv ∧ (nextOr (step dirty)).stateReg ≠ dirty.stateReg ∧ (nextOr (step dirty)).din ≠ dirty.din ∧
    (nextOr (step dirty)).dout ≠ dirty.dout ∧ (nextOr (step dirty)).chain ≠ dirty.chain ∧ (nextOr (step dirty)).nonce ≠ dirty.nonce ∧
    (nextOr (step dirty)).ctr ≠ dirty.ctr ∧ (nextOr (step dirty)).gfres ≠ dirty.gfres ∧
    (nextOr (step dirty)).errcode ≠ dirty.errcode ∧ (nextOr (step dirty)).busy ≠ dirty.busy ∧
    (nextOr (step dirty)).pending ≠ dirty.pending := by decide +kernel

/-- The same clauses met by commands and host writes. -/
theorem witness_WritersOfEachRegister_commands : (run 0x01000000 loaded).rk ≠ loaded.rk ∧ (run 0x1600000A loaded).stateReg ≠ loaded.stateReg ∧
    (run 0x22000010 loaded).chain ≠ loaded.chain ∧ (run 0x22000010 loaded).dout ≠ loaded.dout ∧ (run 0x24000010 loaded).ctr ≠ loaded.ctr ∧
    (run 0x30005783 loaded).gfres ≠ loaded.gfres ∧ (run 0x17000000 loaded).errcode ≠ loaded.errcode ∧
    (access (.write 0x000 4 1) loaded).busy ≠ loaded.busy ∧ (access (.write 0x010 4 1) loaded).key ≠ loaded.key ∧
    (access (.write 0x03C 4 1) loaded).din ≠ loaded.din ∧ (access (.write 0x064 4 1) loaded).nonce ≠ loaded.nonce := by decide +kernel

theorem witness_MultiplyLaws : (0x53 : Byte) ≠ 0x00 ∧ multiply 0x53 0xCA = 0x01 := by decide

theorem witness_SboxIsAffineOfInverse : (if (0x00 : Byte) = 0x00 then (0x00 : Byte) = 0x00 else multiply 0x00 0x00 = 0x01) ∧
    (if (0x53 : Byte) = 0x00 then (0xCA : Byte) = 0x00 else multiply 0x53 0xCA = 0x01) := by decide

/-- Two different blocks that agree in a byte (15) and in a column (3), and two that agree in byte 0 only. -/
theorem witness_LaneIndependence : plain1.byte 0 = key1.byte 0 ∧ plain1 ≠ key1 ∧
    (Block.ofHex 0x0c0d0e0f).word 3 = key1.word 3 ∧ Block.ofHex 0x0c0d0e0f ≠ key1 ∧ (0 : BitVec 4).toNat ≤ 10 ∧ (10 : BitVec 4).toNat ≤ 10 := by
  decide

/-- A STATE whose rows are constant and differ from one another. -/
theorem witness_RowRotationCommands : ∀ r c c' : Fin 4, ((Block.ofHex 0x01020304010203040102030401020304).word c).byte r =
    ((Block.ofHex 0x01020304010203040102030401020304).word c').byte r := by decide

/-- A STATE with a column (2) of four equal bytes. -/
theorem witness_ColumnMixingCommands : ∀ r : Fin 4, ((Block.ofHex 0xdb135345f20a225c01010101c6c6c6c7).word 2).byte r =
    ((Block.ofHex 0xdb135345f20a225c01010101c6c6c6c7).word 2).byte 0 := by decide

theorem witness_ArkCommand : (11 : BitVec 4).toNat > 10 ∧ (15 : BitVec 4).toNat > 10 ∧ (0 : BitVec 4).toNat ≤ 10 ∧
    (10 : BitVec 4).toNat ≤ 10 := by decide

theorem witness_ScheduleWordFunctions : 1 ≤ 1 ∧ 1 ≤ 9 ∧ 1 ≤ 9 ∧ 9 ≤ 9 ∧ rcon 10 = multiply (rcon 9) 0x02 := by decide

theorem witness_KeyExpansionRecurrence : (4 < 44 ∧ 4 ≤ 4) ∧ (43 < 44 ∧ 4 ≤ 43) := by decide

theorem witness_EnsureRoundKeysRule : State.reset.rkv = false ∧ expanded.rkv = true ∧ (Instr.ctrxor 1).wellFormed = true ∧
    usesRoundKeys (.ctrxor 1) = true ∧ (Instr.ark 11).wellFormed = false := by decide

theorem witness_KeyexpCommand : keysCurrent expanded ∧ expanded.rkv = true ∧ (Instr.ecbenc 16).wellFormed = true ∧
    usesRoundKeys (.ecbenc 16) = true ∧ loaded.rkv = false := ⟨fun _ => rfl, rfl, by decide, by decide, by decide⟩

theorem witness_ModeCommandsCommon : Instr.ctrxor 16 ∈ modeCommands 16 ∧ (Instr.ctrxor 16).wellFormed = true ∧
    Instr.cbcdec 16 ∈ fullBlockCommands 16 ∧ Instr.ecbenc 15 ∈ modeCommands 15 ∧ (Instr.ecbenc 15).wellFormed = false := by decide

theorem witness_EcbCommands : (0 : BitVec 5) ≠ 16 ∧ (15 : BitVec 5) ≠ 16 ∧ (17 : BitVec 5) ≠ 16 ∧ keysCurrent loaded ∧
    keysCurrent { expanded with din := plain1 } ∧ loaded.key = expanded.key ∧ loaded.din = { expanded with din := plain1 }.din :=
  ⟨by decide, by decide, by decide, fun h => absurd h (by decide), fun _ => rfl, rfl, rfl⟩

theorem witness_CbcCommands : State.reset.chain = .ofHex 0 ∧ (31 : BitVec 5) ≠ 16 := by decide

/-- The ends of CTRXOR's legal range and of its illegal one, and two DIN values that agree in 5 bytes only. -/
theorem witness_CtrxorCommand : (1 ≤ (1 : BitVec 5).toNat ∧ (1 : BitVec 5).toNat ≤ 16) ∧
    (1 ≤ (16 : BitVec 5).toNat ∧ (16 : BitVec 5).toNat ≤ 16) ∧ (0 : BitVec 5).toNat = 0 ∧ (17 : BitVec 5).toNat > 16 ∧
    (31 : BitVec 5).toNat > 16 ∧
    (∀ j : Fin 16, j.val < 5 → (Block.ofHex 0x48656c6c6fffffffffffffffffffffff).byte j =
      (Block.ofHex 0x48656c6c6f0000000000000000000000).byte j) := by decide

/-- V37b and V39b: CTRLO at its largest value, with CTRHI at its largest and below. -/
theorem witness_CounterIncrement : regWord .ctrLo { State.reset with ctr := 0xFFFFFFFFFFFFFFFF } = 0xFFFFFFFF#32 ∧
    regWord .ctrHi { State.reset with ctr := 0x00000000FFFFFFFF } = 0x00000000#32 ∧ 1 ≤ (16 : BitVec 5).toNat ∧
    (16 : BitVec 5).toNat ≤ 16 := by decide

theorem witness_CtrSeekable : 1 ≤ (5 : BitVec 5).toNat ∧ (5 : BitVec 5).toNat ≤ 16 ∧
    (nextOr (execAll (List.replicate 2 (.ctrxor 16)) (loaded.setCtr 0))).ctr = .ofNat 64 2 := by decide +kernel

theorem witness_EcbOutputsEqualExactlyForEqualInputs : keysCurrent loaded ∧ keysCurrent expanded ∧ loaded.key = expanded.key :=
  ⟨fun h => absurd h (by decide), fun _ => rfl, rfl⟩

theorem witness_MessagesFollowTheModes : keysCurrent loaded ∧ (cbcMessage (keyExpansion key1) iv1 [plain1, plain1]).length = 2 ∧
    (cbcMessage (keyExpansion key1) iv1 [plain1]) = [.ofHex 0x16628846f7334843bc7321cc79661680] :=
  ⟨fun h => absurd h (by decide), by decide +kernel, by decide +kernel⟩

theorem witness_NopCommand : engineNext (busyWith 0x00000000 [.engine] loaded) [] ∧
    (busyWith 0x00000000 [.engine] loaded).pending = 0x00000000#32 := ⟨⟨rfl, .inl rfl⟩, rfl⟩

theorem witness_RecordErrorIsSticky : State.reset.errcode.code = 0 ∧ dirty.errcode.code ≠ 0 := by decide

theorem witness_ErrorsArePrecise : engineNext (busyWith 0x17000000 [] dirty) [] ∧ raises (busyWith 0x17000000 [] dirty).pending .illegalOpcode ∧
    dirty.busy = true := ⟨⟨rfl, .inr ⟨rfl, rfl⟩⟩, .inl (by decide), rfl⟩

theorem witness_ErrorIsClearedAndBlocksNothing : (Instr.ctrxor 16).wellFormed = true ∧ dirty.errcode ≠ .none := by decide

/-- The ends of the two reserved ranges, and an offset that is not reserved. -/
theorem witness_RegisterMap : windowReg 0x070 = .reserved ∧ windowReg 0x0FC = .reserved ∧ windowReg 0x1B0 = .reserved ∧
    windowReg 0x1FC = .reserved ∧ windowReg 0x06C = .ctrLo ∧ windowReg 0x100 = .rkw 0 ∧ windowReg 0x1AC = .rkw 43 := by decide

theorem witness_BusByteOrder : State.reset.busy = false := rfl

/-- Every aligned offset falls under exactly one of the write rule's kinds. -/
theorem witness_HostWrite_kinds : ∀ k : Fin 128,
    ([decide (4 * k.val = 0x000), decide (4 * k.val = 0x008),
      decide ((0x010 ≤ 4 * k.val ∧ 4 * k.val < 0x040) ∨ (0x050 ≤ 4 * k.val ∧ 4 * k.val < 0x070)),
      decide (4 * k.val = 0x004 ∨ 4 * k.val = 0x00C ∨ (0x040 ≤ 4 * k.val ∧ 4 * k.val < 0x050) ∨ 0x070 ≤ 4 * k.val)].count true) = 1 := by
  decide

/-- Each kind of write at the ends of its ranges, BUSY or not. -/
theorem witness_HostWrite : (access (.write 0x03C 4 5) loaded).din.word 3 = ⟨0, 0, 0, 5⟩ ∧
    (access (.write 0x050 4 5) loaded).chain.word 0 = ⟨0, 0, 0, 5⟩ ∧ (access (.write 0x06C 4 5) loaded).ctr = 5 ∧
    (access (.write 0x010 4 5) loaded).key.word 0 = ⟨0, 0, 0, 5⟩ ∧ (access (.write 0x040 4 5) loaded).dout = .zero ∧
    (access (.write 0x000 4 5) loaded).pending = 5 ∧ (access (.write 0x000 4 5) dirty).pending = 0x20000010 := by decide

/-- Exact and drawn reads at the ends of the ranges: GFRES, the last DOUT word, the last RK word, and the same while BUSY = 1. -/
theorem witness_HostRead : (access (.read 0x00C 4) { dirty with busy := false }).seen = [.value 0x000000C1] ∧
    (access (.read 0x04C 4) { dirty with busy := false }).seen = [.value 0xccddeeff] ∧
    (access (.read 0x04C 4) dirty).draws = 1 ∧ (access (.read 0x01C 4) dirty).seen = [.value 0x0c0d0e0f] ∧
    (access (.read 0x1AC 4) { dirty with busy := false }).seen = [.value 0x4d2b30c5] ∧
    (access (.read 0x1AC 4) dirty).busy = true := by decide +kernel

theorem witness_ReservedAndReadOnlyWords : (0x070 < 0x200 ∧ 0x070 % 4 = 0) ∧ (0x0FC < 0x100 ∧ 0x0FC % 4 = 0) ∧
    (0x1B0 < 0x200 ∧ 0x1B0 % 4 = 0) ∧ (0x1FC < 0x200 ∧ 0x1FC % 4 = 0) ∧ (0x100 % 4 = 0 ∧ 0x1AC < 0x1B0 ∧ 0x1AC % 4 = 0) := by decide

/-- The ends of the window, for a window that does not start at 0. -/
theorem witness_UnadmittedAccesses : windowOffset? 0x200 0x200 = some 0x000 ∧ windowOffset? 0x200 0x3FF = some 0x1FF ∧
    (0x1FF < 0x200) ∧ (0x200 + 0x200 ≤ 0x400) ∧ (BitVec.toNat (0x1FF#9)) % 4 ≠ 0 := by decide

theorem witness_WriteSets : engineNext (busyWith 0x20000010 [] loaded) [] ∧ (∃ t, step (busyWith 0x20000010 [] loaded) = .next t) ∧
    writeSet 0x20000010 false (.stateReg 0) = false ∧ writeSet 0x20000010 false (.rkw 43) = true ∧
    writeSet 0x20000010 true (.rkw 43) = false ∧ raises 0x2000000F#32 .length :=
  ⟨⟨rfl, .inr ⟨rfl, rfl⟩⟩, ⟨_, rfl⟩, by decide, by decide, by decide, witness_raises.2.2.2.1⟩

theorem witness_WaitingHostDrawsNothing : (access (.read 0x040 4) dirty).draws ≠ dirty.draws ∧
    (∃ t, step (dirty.setInputs [.access (.read 0x040 4)]) = .next t) := ⟨by decide, ⟨_, rfl⟩⟩

end Sys2Proof.Tests
end

/-! ### Host writes and legal commands

What one host write and one legal command can do to the registers, each said once as a list of cases (R39, R66, R84). -/

namespace Sys2Proof.Machine

/-- What a host write of the window register `r` can make of `s` (R66): nothing, the record of an error while BUSY = 1, or
an accepted write. -/
inductive WriteCase (s : State) : WinReg → State → Prop where
  | ignored (r : WinReg) : WriteCase s r s
  | dropped (r : WinReg) (e : ErrCode) (busy : s.busy = true) : WriteCase s r (recordError e s)
  | cleared : WriteCase s .errcode (clearError s)
  | latched (v : Word) (idle : s.busy = false) : WriteCase s .cmd ((s.setPending v).setBusy true)
  | key (k : Fin 4) (v : Block) (idle : s.busy = false) : WriteCase s (.key k) ((s.setKey v).setRkv false)
  | stateReg (k : Fin 4) (v : Block) (idle : s.busy = false) : WriteCase s (.stateReg k) (s.setStateReg v)
  | din (k : Fin 4) (v : Block) (idle : s.busy = false) : WriteCase s (.din k) (s.setDin v)
  | chain (k : Fin 4) (v : Block) (idle : s.busy = false) : WriteCase s (.chain k) (s.setChain v)
  | nonce (k : Fin 2) (v : Nonce) (idle : s.busy = false) : WriteCase s (.nonce k) (s.setNonce v)
  | ctrHi (v : BitVec 64) (idle : s.busy = false) : WriteCase s .ctrHi (s.setCtr v)
  | ctrLo (v : BitVec 64) (idle : s.busy = false) : WriteCase s .ctrLo (s.setCtr v)

theorem WriteCase.of_dataWrite {s t : State} {r : WinReg} (accepted : s.busy = false → WriteCase s r t) :
    WriteCase s r (dataWrite t s) := by
  cases hb : s.busy with
  | true => rw [dataWrite_busy s hb]; exact .dropped r _ hb
  | false => rw [dataWrite_idle s hb]; exact accepted hb

theorem WriteCase.of_cmdWrite (s : State) (v : Word) : WriteCase s .cmd (cmdWrite v s) := by
  cases hb : s.busy with
  | true => rw [cmdWrite_busy s hb]; exact .dropped .cmd _ hb
  | false => rw [cmdWrite_idle s hb]; exact .latched v hb

theorem memWrite_cases (off : BitVec 9) (v : Word) (s : State) : WriteCase s (windowReg off) (memWrite off v s) := by
  unfold memWrite
  generalize windowReg off = r
  cases r with
  | cmd => exact .of_cmdWrite s v
  | errcode => exact .cleared
  | key k => exact .of_dataWrite (.key k _)
  | stateReg k => exact .of_dataWrite (.stateReg k _)
  | din k => exact .of_dataWrite (.din k _)
  | chain k => exact .of_dataWrite (.chain k _)
  | nonce k => exact .of_dataWrite (.nonce k _)
  | ctrHi => exact .of_dataWrite (.ctrHi _)
  | ctrLo => exact .of_dataWrite (.ctrLo _)
  | status => exact .ignored _
  | gfres => exact .ignored _
  | dout k => exact .ignored _
  | rkw i => exact .ignored _
  | reserved => exact .ignored _

/-- Which registers a command with legal operands writes (R84), and that the round keys are ensured first by those that use
them (R145); the values written are left open. -/
inductive LegalCase (s : State) : Instr → State → Prop where
  | nop : LegalCase s .nop s
  | keyexp : LegalCase s .keyexp ((s.setRk (keyExpansion s.key)).setRkv true)
  | transform (i : Instr) (v : Block) (command : i ∈ [.subb, .isubb, .shrow, .ishrow, .mixcol, .imixcol]) :
      LegalCase s i (s.setStateReg v)
  | cipher (i : Instr) (v : Block)
      (command : i ∈ [.encblk, .decblk] ++ (List.range 11).map (fun r => Instr.ark (.ofNat 4 r))) :
      LegalCase s i ((ensureRoundKeys s).setStateReg v)
  | ecb (i : Instr) (v : Block) (command : i ∈ [.ecbenc 16, .ecbdec 16]) : LegalCase s i ((ensureRoundKeys s).setDout v)
  | cbc (i : Instr) (v w : Block) (command : i ∈ [.cbcenc 16, .cbcdec 16]) :
      LegalCase s i (((ensureRoundKeys s).setDout v).setChain w)
  | ctrxor (n : BitVec 5) (v : Block) (w : BitVec 64) :
      LegalCase s (.ctrxor n) (((ensureRoundKeys s).setDout v).setCtr w)
  | gfmul (a b v : Byte) : LegalCase s (.gfmul a b) (s.setGfres v)

/-- The ARK commands with a legal ROUND are those of the rounds 0 to 10 (R73). -/
theorem ark_mem_legal {round : BitVec 4} (h : round.toNat ≤ 10) :
    Instr.ark round ∈ (List.range 11).map (fun r => Instr.ark (.ofNat 4 r)) :=
  List.mem_map.2 ⟨round.toNat, List.mem_range.2 (by omega), by simp⟩

theorem exec_legal_cases {i : Instr} {s t : State} (hw : i.wellFormed = true) (h : exec i s = .next t) :
    LegalCase s i t := by
  cases i <;> simp only [Instr.wellFormed, beq_iff_eq, decide_eq_true_eq, Bool.and_eq_true] at hw
  case nop => cases h; exact .nop
  case keyexp => cases h; exact .keyexp
  case ark round =>
    rw [exec_ark_legal s hw] at h; cases h
    exact .cipher _ _ (List.mem_append_right _ (ark_mem_legal hw))
  case encblk => rw [exec_encblk] at h; cases h; exact .cipher _ _ (by simp)
  case decblk => rw [exec_decblk] at h; cases h; exact .cipher _ _ (by simp)
  case ecbenc n => subst hw; rw [exec_ecbenc_full] at h; cases h; exact .ecb _ _ (by simp)
  case ecbdec n => subst hw; rw [exec_ecbdec_full] at h; cases h; exact .ecb _ _ (by simp)
  case cbcenc n => subst hw; rw [exec_cbcenc_full] at h; cases h; exact .cbc _ _ _ (by simp)
  case cbcdec n => subst hw; rw [exec_cbcdec_full] at h; cases h; exact .cbc _ _ _ (by simp)
  case ctrxor n => rw [exec_ctrxor_legal s hw] at h; cases h; exact .ctrxor _ _ _
  case gfmul a b => cases h; exact .gfmul a b _
  all_goals cases h; exact .transform _ _ (by simp)

/-- The round keys after a legal command: as they were, or those of KEY, expanded by KEYEXP or, where RKV was 0, by a command
that uses them (R145, R146). -/
theorem LegalCase.roundKeys {i : Instr} {s t : State} (h : LegalCase s i t) :
    (t.rk = s.rk ∧ t.rkv = s.rkv) ∨
      (t.rk = keyExpansion s.key ∧ t.rkv = true ∧ (i = .keyexp ∨ (s.rkv = false ∧ usesRoundKeys i = true))) := by
  have ensured (hu : usesRoundKeys i = true) :
      ((ensureRoundKeys s).rk = s.rk ∧ (ensureRoundKeys s).rkv = s.rkv) ∨
        ((ensureRoundKeys s).rk = keyExpansion s.key ∧ (ensureRoundKeys s).rkv = true ∧
          (i = .keyexp ∨ (s.rkv = false ∧ usesRoundKeys i = true))) := by
    cases hv : s.rkv with
    | true => rw [ensureRoundKeys_of_valid s hv]; exact .inl ⟨rfl, hv⟩
    | false => rw [ensureRoundKeys_of_invalid s hv]; exact .inr ⟨rfl, rfl, .inr ⟨rfl, hu⟩⟩
  cases h with
  | nop => exact .inl ⟨rfl, rfl⟩
  | keyexp => exact .inr ⟨rfl, rfl, .inl rfl⟩
  | transform => exact .inl ⟨rfl, rfl⟩
  | cipher _ v command => exact ensured (by fin_cases command <;> rfl)
  | ecb _ v command => exact ensured (by fin_cases command <;> rfl)
  | cbc _ v w command => exact ensured (by fin_cases command <;> rfl)
  | ctrxor => exact ensured rfl
  | gfmul => exact .inl ⟨rfl, rfl⟩

end Sys2Proof.Machine

/-! ### The invariant

RKV = 1 implies RK = KeyExpansion(KEY) (R23), and BASE is aligned (R8). -/

namespace Sys2Proof.Machine

/-- The invariant speaks of KEY, RK, RKV and the parameters alone. -/
theorem keysCurrent_congr {s t : State} (key : t.key = s.key) (rk : t.rk = s.rk) (rkv : t.rkv = s.rkv)
    (h : keysCurrent s) : keysCurrent t := by
  rw [keysCurrent, key, rk, rkv]; exact h

theorem keysCurrent_of_invalid {t : State} (rkv : t.rkv = false) : keysCurrent t := by
  intro hv; rw [rkv] at hv; cases hv

theorem exec_keeps_keysCurrent {i : Instr} {s t : State} (hw : i.wellFormed = true) (h : exec i s = .next t)
    (hs : keysCurrent s) : keysCurrent t := by
  have hkey : t.key = s.key := (exec_frame h).key
  rcases (exec_legal_cases hw h).roundKeys with ⟨hrk, hrkv⟩ | ⟨hrk, -, -⟩
  · exact keysCurrent_congr hkey hrk hrkv hs
  · intro _; rw [hrk, hkey]

theorem executeWord_keeps_keysCurrent {w : Word} {s t : State} (h : executeWord exec w s = .next t)
    (hs : keysCurrent s) : keysCurrent t := by
  rcases executeWord_cases h with ⟨e, rfl, -⟩ | ⟨i, -, hw, hx⟩
  · exact keysCurrent_congr (by simp) (by simp) (by simp) hs
  · exact exec_keeps_keysCurrent hw hx hs

theorem memRead_keeps_keysCurrent (off : BitVec 9) {s : State} (hs : keysCurrent s) : keysCurrent (memRead off s).2 := by
  rcases memRead_state s off with h | ⟨h, -⟩ <;> rw [h]
  · exact hs
  · exact hs

/-- A write of KEY clears RKV, so that no stale round key is taken for a current one (R20). -/
theorem memWrite_keeps_keysCurrent (off : BitVec 9) (v : Word) {s : State} (hs : keysCurrent s) :
    keysCurrent (memWrite off v s) := by
  rcases memWrite_key s off v with ⟨hkey, hrkv⟩ | ⟨-, hrkv, -⟩
  · exact keysCurrent_congr hkey (memWrite_frame s off v).rk hrkv hs
  · exact keysCurrent_of_invalid hrkv

theorem step_keeps_keysCurrent {s t : State} (h : step s = .next t) (hs : keysCurrent s) : keysCurrent t := by
  have taken : ∀ rest, keysCurrent (s.setInputs rest) := fun _ => hs
  cases step_cases h with
  | executes rest u turn run state =>
    have hu : keysCurrent u := executeWord_keeps_keysCurrent run (taken rest)
    rw [state]; exact hu
  | idles rest idle turn state => rw [state]; exact taken rest
  | resets n rest turn state => rw [state]; exact keysCurrent_of_invalid rfl
  | reads addr rest off turn window aligned state =>
    have hu : keysCurrent (memRead off (s.setInputs rest)).2 := memRead_keeps_keysCurrent off (taken rest)
    rw [state]; exact hu
  | writes addr v rest off turn window aligned state => rw [state]; exact memWrite_keeps_keysCurrent off v (taken rest)
  | busError a rest turn state => rw [state]; exact taken rest

theorem executeWord_params {w : Word} {s t : State} (h : executeWord exec w s = .next t) : t.params = s.params := by
  rcases executeWord_cases h with ⟨e, rfl, -⟩ | ⟨i, -, -, hx⟩
  · simp
  · exact (exec_frame hx).params

/-- No event changes the implementation's parameters (R8). -/
theorem step_params {s t : State} (h : step s = .next t) : t.params = s.params := by
  cases step_cases h with
  | executes rest u turn run state => rw [state, State.setBusy_params]; exact (executeWord_params run :)
  | idles rest idle turn state => rw [state]; rfl
  | resets n rest turn state => rw [state]; rfl
  | reads addr rest off turn window aligned state =>
    rw [state]
    rcases memRead_state (s.setInputs rest) off with hr | ⟨hr, -⟩ <;> simp [hr]
  | writes addr v rest off turn window aligned state => rw [state]; exact (memWrite_frame _ off v).params
  | busError a rest turn state => rw [state]; rfl

/-- Settles O14: a step expands KEY into RK, leaves the round keys and KEY alone, or clears RKV. -/
theorem stepKeepsInvariant : Obligations.StepKeepsInvariant := by
  rintro s t ⟨hkeys, hbase⟩ h
  exact ⟨step_keeps_keysCurrent h hkeys, by rw [step_params h]; exact hbase⟩

/-- Settles O15: RKV is 0 and BASE is 0 after reset. -/
theorem resetMeetsInvariant : Obligations.ResetMeetsInvariant :=
  ⟨keysCurrent_of_invalid rfl, rfl⟩

end Sys2Proof.Machine

/-! ### The writers of each register (R39) -/

namespace Sys2Proof.Machine

/-! The events still to come are out of a host write's reach. -/

theorem dataWrite_setInputs (t s : State) (rest : List Event) :
    dataWrite (t.setInputs rest) (s.setInputs rest) = (dataWrite t s).setInputs rest := by
  cases hb : s.busy <;> simp [dataWrite, hb, recordError_setInputs]

theorem cmdWrite_setInputs (v : Word) (s : State) (rest : List Event) :
    cmdWrite v (s.setInputs rest) = (cmdWrite v s).setInputs rest := by
  cases hb : s.busy
  · rw [cmdWrite_idle s hb, cmdWrite_idle (s.setInputs rest) hb]; rfl
  · rw [cmdWrite_busy s hb, cmdWrite_busy (s.setInputs rest) hb, recordError_setInputs]

theorem memWrite_setInputs (off : BitVec 9) (v : Word) (s : State) (rest : List Event) :
    memWrite off v (s.setInputs rest) = (memWrite off v s).setInputs rest := by
  unfold memWrite
  cases windowReg off with
  | cmd => exact cmdWrite_setInputs v s rest
  | errcode => rfl
  | status => rfl
  | gfres => rfl
  | dout => rfl
  | rkw => rfl
  | reserved => rfl
  | _ => dsimp only; rw [← dataWrite_setInputs]; rfl

/-- The registers of `t` are those of `s`; the model's own fields are left open. -/
structure SameRegisters (s t : State) : Prop where
  key : t.key = s.key
  rk : t.rk = s.rk
  rkv : t.rkv = s.rkv
  stateReg : t.stateReg = s.stateReg
  din : t.din = s.din
  dout : t.dout = s.dout
  chain : t.chain = s.chain
  nonce : t.nonce = s.nonce
  ctr : t.ctr = s.ctr
  gfres : t.gfres = s.gfres
  errcode : t.errcode = s.errcode
  pending : t.pending = s.pending
  busy : t.busy = s.busy

/-- A read changes no register, whatever the host sees of it (R67). -/
theorem read_sameRegisters (off : BitVec 9) (rest : List Event) (v : Seen) (s : State) :
    SameRegisters s (see v (memRead off (s.setInputs rest)).2) := by
  rcases memRead_state (s.setInputs rest) off with h | ⟨h, -⟩ <;> rw [h] <;> constructor <;> rfl

/-- The sources of change in a step: a reset, an admitted host write, an error of the pending word, a legal command, or none
that a register sees. -/
inductive RegisterStep (s t : State) : Prop where
  | resets (next : resetNext s)
  | keeps (same : SameRegisters s t)
  | writes (rest : List Event) (r : WinReg) (u : State) (next : writeNext s r) (effect : WriteCase s r u)
      (state : t = u.setInputs rest)
  | raised (rest : List Event) (e : ErrCode) (turn : engineNext s rest) (error : raises s.pending e)
      (state : t = (recordError e (s.setInputs rest)).setBusy false)
  | executes (rest : List Event) (i : Instr) (u : State) (turn : engineNext s rest) (next : commandNext s i)
      (effect : LegalCase (s.setInputs rest) i u) (frame : CommandFrame (s.setInputs rest) u) (state : t = u.setBusy false)

theorem step_registerStep {s t : State} (h : step s = .next t) : RegisterStep s t := by
  cases step_cases h with
  | executes rest u turn run state =>
    rcases executeWord_cases run with ⟨e, rfl, hr⟩ | ⟨i, hd, hw, hx⟩
    · exact .raised rest e turn hr state
    · exact .executes rest i u turn ⟨⟨rest, turn⟩, hd⟩ (exec_legal_cases hw hx) (exec_frame hx) state
  | idles rest idle turn state => rw [state]; exact .keeps (by constructor <;> rfl)
  | resets n rest turn state => exact .resets ⟨n, rest, turn⟩
  | reads addr rest off turn window aligned state => rw [state]; exact .keeps (read_sameRegisters off rest _ s)
  | writes addr v rest off turn window aligned state =>
    exact .writes rest _ _ ⟨addr, v, rest, off, turn, window, aligned, rfl⟩ (memWrite_cases off v s)
      (by rw [state, memWrite_setInputs])
  | busError a rest turn state => rw [state]; exact .keeps (by constructor <;> rfl)

/-- The host's half of R39's table: the registers that an admitted write next at `s` can change in making `t`. -/
structure HostWriters (s t : State) : Prop where
  key : t.key ≠ s.key → s.busy = false ∧ ∃ k, writeNext s (.key k)
  rkv : t.rkv ≠ s.rkv → s.busy = false ∧ ∃ k, writeNext s (.key k)
  stateReg : t.stateReg ≠ s.stateReg → s.busy = false ∧ ∃ k, writeNext s (.stateReg k)
  din : t.din ≠ s.din → s.busy = false ∧ ∃ k, writeNext s (.din k)
  chain : t.chain ≠ s.chain → s.busy = false ∧ ∃ k, writeNext s (.chain k)
  nonce : t.nonce ≠ s.nonce → s.busy = false ∧ ∃ k, writeNext s (.nonce k)
  ctr : t.ctr ≠ s.ctr → s.busy = false ∧ (writeNext s .ctrHi ∨ writeNext s .ctrLo)
  errcode : t.errcode ≠ s.errcode → writeNext s .errcode ∨ (s.busy = true ∧ s.errcode = .none ∧ ∃ r, writeNext s r)
  pending : t.pending ≠ s.pending → s.busy = false ∧ writeNext s .cmd
  busy : t.busy ≠ s.busy → s.busy = false ∧ writeNext s .cmd
  rk : t.rk = s.rk
  dout : t.dout = s.dout
  gfres : t.gfres = s.gfres

theorem WriteCase.hostWriters {s u : State} {r : WinReg} (effect : WriteCase s r u) (next : writeNext s r) :
    HostWriters s u := by
  cases effect with
  | ignored => constructor <;> simp
  | dropped _ e busy =>
    by_cases hn : s.errcode = .none
    · have hr : ∃ r, writeNext s r := ⟨r, next⟩
      constructor <;> simp [busy, hn, hr]
    · rw [recordError_of_kept s hn]; constructor <;> simp
  | cleared => constructor <;> simp [next]
  | latched v idle => constructor <;> simp [idle, next]
  | key k v idle =>
    have hk : ∃ k, writeNext s (.key k) := ⟨k, next⟩
    constructor <;> simp [idle, hk]
  | stateReg k v idle =>
    have hk : ∃ k, writeNext s (.stateReg k) := ⟨k, next⟩
    constructor <;> simp [idle, hk]
  | din k v idle =>
    have hk : ∃ k, writeNext s (.din k) := ⟨k, next⟩
    constructor <;> simp [idle, hk]
  | chain k v idle =>
    have hk : ∃ k, writeNext s (.chain k) := ⟨k, next⟩
    constructor <;> simp [idle, hk]
  | nonce k v idle =>
    have hk : ∃ k, writeNext s (.nonce k) := ⟨k, next⟩
    constructor <;> simp [idle, hk]
  | ctrHi v idle => constructor <;> simp [idle, next]
  | ctrLo v idle => constructor <;> simp [idle, next]

/-- The commands' half of R39's table, but for the round keys: the registers that the legal command `i` can change. -/
structure CommandWriters (s : State) (i : Instr) (t : State) : Prop where
  stateReg : t.stateReg ≠ s.stateReg → i ∈ [.subb, .isubb, .shrow, .ishrow, .mixcol, .imixcol, .encblk, .decblk] ++
    (List.range 11).map (fun r => Instr.ark (.ofNat 4 r))
  dout : t.dout ≠ s.dout → ∃ n, i ∈ modeCommands n
  chain : t.chain ≠ s.chain → i = .cbcenc 16 ∨ i = .cbcdec 16
  ctr : t.ctr ≠ s.ctr → ∃ n, i = .ctrxor n
  gfres : t.gfres ≠ s.gfres → ∃ a b, i = .gfmul a b
  errcode : t.errcode = s.errcode

theorem LegalCase.commandWriters {s t : State} {i : Instr} (h : LegalCase s i t) : CommandWriters s i t := by
  cases h with
  | nop => constructor <;> simp
  | keyexp => constructor <;> simp
  | transform _ v command =>
    have hi := List.mem_append_left ([.encblk, .decblk] ++ (List.range 11).map fun r => Instr.ark (.ofNat 4 r)) command
    exact ⟨fun _ => hi, by simp, by simp, by simp, by simp, by simp⟩
  | cipher _ v command =>
    have hi := List.mem_append_right [.subb, .isubb, .shrow, .ishrow, .mixcol, .imixcol] command
    exact ⟨fun _ => hi, by simp, by simp, by simp, by simp, by simp⟩
  | ecb _ v command =>
    have hmode : i ∈ modeCommands 16 := by fin_cases command <;> decide
    exact ⟨by simp, fun _ => ⟨16, hmode⟩, by simp, by simp, by simp, by simp⟩
  | cbc _ v w command =>
    have hmode : i ∈ modeCommands 16 := by fin_cases command <;> decide
    exact ⟨by simp, fun _ => ⟨16, hmode⟩, fun _ => by simpa using command, by simp, by simp, by simp⟩
  | ctrxor n v w =>
    have hmode : .ctrxor n ∈ modeCommands n := List.mem_append_right _ (List.mem_singleton_self _)
    exact ⟨by simp, fun _ => ⟨n, hmode⟩, by simp, fun _ => ⟨n, rfl⟩, by simp, by simp⟩
  | gfmul a b v => constructor <;> simp

/-- Settles O18: a register's change is traced to the step's source, and from a host write or a command to its half of R39's
table. -/
theorem writersOfEachRegister : Obligations.WritersOfEachRegister := by
  intro s t h
  cases step_registerStep h with
  | resets next => simp [next]
  | keeps same =>
    obtain ⟨key, rk, rkv, stateReg, din, dout, chain, nonce, ctr, gfres, errcode, pending, busy⟩ := same
    simp [*]
  | writes rest r u next effect state =>
    subst state
    have w := effect.hostWriters next
    exact ⟨fun hc => .inr (w.key hc), fun hc => absurd w.rk hc, fun hc => .inr (.inl (w.rkv hc)),
      fun hc => .inr (.inl (w.stateReg hc)), fun hc => .inr (w.din hc), fun hc => absurd w.dout hc,
      fun hc => .inr (.inl (w.chain hc)), fun hc => .inr (w.nonce hc), fun hc => .inr (.inl (w.ctr hc)),
      fun hc => absurd w.gfres hc, fun hc => (w.errcode hc).elim (fun he => .inr (.inl he)) fun hb => .inr (.inr (.inr hb)),
      fun hc => .inr (w.pending hc), fun hc => .inr (.inl (w.busy hc))⟩
  | raised rest e turn error state =>
    subst state
    have hturn : ∃ rest, engineNext s rest := ⟨rest, turn⟩
    have herror : ∃ e, raises s.pending e := ⟨e, error⟩
    simp [hturn, herror]
  | executes rest i u turn next effect frame state =>
    subst state
    have w := effect.commandWriters
    have named {j : Instr} (hi : i = j) : commandNext s j := hi ▸ next
    have roundKeys : (u.rk = s.rk ∧ u.rkv = s.rkv) ∨ commandNext s .keyexp ∨
        (s.rkv = false ∧ ∃ i, usesRoundKeys i = true ∧ commandNext s i) :=
      effect.roundKeys.imp_right fun ⟨_, _, cause⟩ => cause.imp named fun ⟨hv, hu⟩ => ⟨hv, i, hu, next⟩
    exact ⟨fun hc => absurd frame.key hc,
      fun hc => .inr (roundKeys.resolve_left fun same => hc same.1),
      fun hc => .inr (.inr (roundKeys.resolve_left fun same => hc same.2)),
      fun hc => .inr (.inr ⟨i, w.stateReg hc, next⟩),
      fun hc => absurd frame.din hc,
      fun hc => .inr ((w.dout hc).imp fun n hi => ⟨i, hi, next⟩),
      fun hc => .inr (.inr ((w.chain hc).imp named named)),
      fun hc => absurd frame.nonce hc,
      fun hc => .inr (.inr ((w.ctr hc).imp fun _ => named)),
      fun hc => .inr ((w.gfres hc).imp fun _ => .imp fun _ => named),
      fun hc => absurd w.errcode hc,
      fun hc => absurd frame.pending hc,
      fun _ => .inr (.inr ⟨rest, turn⟩)⟩

end Sys2Proof.Machine

/-! ### Register values after reset (R38) -/

namespace Sys2Proof

@[simp] theorem Block.byte_zero (i : Fin 16) : Block.zero.byte i = 0x00 := by
  fin_cases i <;> rfl

end Sys2Proof

namespace Sys2Proof.Machine

/-- A legal command that uses round keys ensures them first, so that ensuring them before it changes nothing (R145). -/
theorem exec_ensureRoundKeys {i : Instr} (s : State) (hw : i.wellFormed = true) (hu : usesRoundKeys i = true) :
    exec i (ensureRoundKeys s) = exec i s := by
  cases i <;> simp only [Instr.wellFormed, beq_iff_eq, decide_eq_true_eq, Bool.and_eq_true] at hw <;> cases hu
  case ark round => simp [exec_ark_legal _ hw]
  case encblk => simp
  case decblk => simp
  case ecbenc n => subst hw; rw [exec_ecbenc_full, exec_ecbenc_full]; simp
  case ecbdec n => subst hw; rw [exec_ecbdec_full, exec_ecbdec_full]; simp
  case cbcenc n => subst hw; rw [exec_cbcenc_full, exec_cbcenc_full]; simp
  case cbcdec n => subst hw; rw [exec_cbcdec_full, exec_cbcdec_full]; simp
  case ctrxor n => simp [exec_ctrxor_legal _ hw]

/-- A legal command that uses round keys leaves them as EnsureRoundKeys does (R145). -/
theorem LegalCase.roundKeys_of_uses {i : Instr} {s t : State} (h : LegalCase s i t) (hu : usesRoundKeys i = true) :
    t.rk = (ensureRoundKeys s).rk ∧ t.rkv = true := by
  cases h with
  | cipher => simp
  | ecb => simp
  | cbc => simp
  | ctrxor => simp
  | transform i v command => fin_cases command <;> cases hu
  | nop => cases hu
  | keyexp => cases hu
  | gfmul => cases hu

/-- Before KEY is expanded, whatever RK holds, a legal command that uses round keys answers as from KEY's round keys, and
leaves these valid (R38, R145). -/
theorem exec_uses_expanded_key {i : Instr} {s : State} (hw : i.wellFormed = true) (hu : usesRoundKeys i = true)
    (hv : s.rkv = false) :
    ∃ t, exec i s = .next t ∧ exec i ((s.setRk (keyExpansion s.key)).setRkv true) = .next t ∧
      t.rkv = true ∧ t.rk = keyExpansion s.key := by
  obtain ⟨t, ht⟩ := exec_answers_next s i
  have hexp : ensureRoundKeys s = (s.setRk (keyExpansion s.key)).setRkv true := ensureRoundKeys_of_invalid s hv
  obtain ⟨hrk, hrkv⟩ := (exec_legal_cases hw ht).roundKeys_of_uses hu
  exact ⟨t, ht, by rw [← hexp, exec_ensureRoundKeys s hw hu, ht], hrkv, by rw [hrk, hexp]; rfl⟩

/-- ARK 0 as the first command after a load of KEY: it expands KEY, and round key 0 is KEY itself (R144). -/
theorem execAll_ark_zero_after_reset (k : Block) : execAll [.ark 0] (withKey k State.reset) =
    .next (((State.reset.setKey k).setRk (keyExpansion k)).setRkv true |>.setStateReg k) := by
  have hv : (withKey k State.reset).rkv = false := rfl
  have h0 : addRoundKey State.reset.stateReg (keyExpansion k)[0] = k := Block.zero_xor k
  rw [execAll, exec_ark_legal _ (by decide), ensureRoundKeys_of_invalid _ hv]
  exact congrArg (fun b => Host.Outcome.next (State.setStateReg _ b)) h0

/-- Settles O16: the table is read off State.reset, and a first command that uses round keys expands KEY before it. -/
theorem resetRegisterValues : Obligations.ResetRegisterValues :=
  ⟨Block.byte_zero, fun r i => by simp [State.reset], rfl, Block.byte_zero, Block.byte_zero, Block.byte_zero, Block.byte_zero,
    by decide, rfl, rfl, rfl, rfl, rfl, fun s => execAll_ark_zero_after_reset s.key,
    fun _ _ hw hu hv => exec_uses_expanded_key hw hu hv⟩

end Sys2Proof.Machine

/-! ### The register map (R51)

`WinReg.standsAt` writes the map's rows out as offsets; `windowReg_eq_iff` ties it to the model's own map, in both directions. -/

namespace Sys2Proof

/-- The row `r` of R51 stands at window offset `off`. -/
def WinReg.standsAt (r : WinReg) (off : Nat) : Prop :=
  match r with
  | .cmd => off = 0x000
  | .status => off = 0x004
  | .errcode => off = 0x008
  | .gfres => off = 0x00C
  | .key k => off = 0x010 + 4 * k.val
  | .stateReg k => off = 0x020 + 4 * k.val
  | .din k => off = 0x030 + 4 * k.val
  | .dout k => off = 0x040 + 4 * k.val
  | .chain k => off = 0x050 + 4 * k.val
  | .nonce k => off = 0x060 + 4 * k.val
  | .ctrHi => off = 0x068
  | .ctrLo => off = 0x06C
  | .rkw i => off = 0x100 + 4 * i.val
  | .reserved => (0x070 ≤ off ∧ off < 0x100) ∨ 0x1B0 ≤ off

/-- A row other than the reserved one stands at one offset only. -/
theorem WinReg.standsAt_unique {r : WinReg} {m n : Nat} (hr : r ≠ .reserved) (hm : r.standsAt m) (hn : r.standsAt n) :
    m = n := by
  cases r with
  | reserved => exact absurd rfl hr
  | _ => exact hm.trans hn.symm

theorem windowReg_eq_reserved {off : BitVec 9} (h : WinReg.standsAt .reserved off.toNat) : windowReg off = .reserved := by
  unfold windowReg
  generalize off.toNat = o at h
  simp only [WinReg.standsAt] at h
  repeat rw [if_neg (by omega)]
  rw [ite_eq_left_iff]
  exact fun _ => if_neg (by omega)

/-- An aligned offset stands in the row that the map gives it. -/
theorem standsAt_windowReg {off : BitVec 9} (aligned : off.toNat % 4 = 0) : (windowReg off).standsAt off.toNat := by
  unfold windowReg
  generalize off.toNat = o at aligned
  repeat' refine iteInduction (motive := (WinReg.standsAt · o)) (fun _ => ?_) (fun _ => ?_)
  all_goals simp only [WinReg.standsAt, Fin.ofNat]; omega

theorem windowReg_of_standsAt {r : WinReg} {off : Nat} (h : off < 0x200) (row : r.standsAt off) :
    windowReg (.ofNat 9 off) = r := by
  cases r with
  | reserved => exact windowReg_eq_reserved (by rwa [BitVec.toNat_ofNat, Nat.mod_eq_of_lt h])
  | key k => cases row; revert k; decide
  | stateReg k => cases row; revert k; decide
  | din k => cases row; revert k; decide
  | dout k => cases row; revert k; decide
  | chain k => cases row; revert k; decide
  | nonce k => cases row; revert k; decide
  | rkw i => cases row; revert i; decide
  | _ => cases row; rfl

/-- The row at an aligned offset is `r` exactly if R51 puts `r` there. -/
theorem windowReg_eq_iff {r : WinReg} {off : Nat} (h : off < 0x200) (aligned : off % 4 = 0) :
    windowReg (.ofNat 9 off) = r ↔ r.standsAt off := by
  refine ⟨?_, windowReg_of_standsAt h⟩
  rintro rfl
  have hn : (BitVec.ofNat 9 off).toNat = off := by rw [BitVec.toNat_ofNat, Nat.mod_eq_of_lt h]
  have := standsAt_windowReg (off := .ofNat 9 off) (by rwa [hn])
  rwa [hn] at this

theorem windowReg_injective {off off' : BitVec 9} (aligned : off.toNat % 4 = 0) (aligned' : off'.toNat % 4 = 0)
    (same : windowReg off = windowReg off') (hr : windowReg off ≠ .reserved) : off = off' :=
  BitVec.eq_of_toNat_eq (WinReg.standsAt_unique hr (standsAt_windowReg aligned) (same ▸ standsAt_windowReg aligned'))

/-- Settles O52: each row is read off R51, and no offset but a reserved one shares its row with another. -/
theorem registerMap : Obligations.RegisterMap :=
  ⟨rfl, rfl, rfl, rfl,
    fun k => ⟨windowReg_of_standsAt (by omega) rfl, windowReg_of_standsAt (by omega) rfl,
      windowReg_of_standsAt (by omega) rfl, windowReg_of_standsAt (by omega) rfl, windowReg_of_standsAt (by omega) rfl⟩,
    rfl, rfl, rfl, rfl, fun _ lo hi => windowReg_eq_reserved (.inl ⟨lo, by omega⟩),
    fun i => windowReg_of_standsAt (by omega) rfl,
    fun _ lo => windowReg_eq_reserved (.inr lo), fun _ _ => windowReg_injective⟩

end Sys2Proof

/-! ### Bytes and words on the bus (R55, R56) -/

namespace Sys2Proof

theorem Column.byte_ofWord (w : Word) (j : Fin 4) : (Column.ofWord w).byte j = w.extractLsb' (24 - 8 * j.val) 8 := by
  fin_cases j <;> rfl

theorem Column.extract_toWord (c : Column) (j : Fin 4) : c.toWord.extractLsb' (24 - 8 * j.val) 8 = c.byte j := by
  rw [← Column.byte_ofWord, Column.ofWord_toWord]

/-- Byte `4k + j` of the nonce is byte j of its word k (R28). -/
theorem Nonce.byte_eq_word_byte (n : Nonce) (k : Fin 2) (j : Fin 4) (h : 4 * k.val + j.val < 8) :
    n.byte ⟨4 * k.val + j.val, h⟩ = (n.word k).byte j := by
  have hk : (4 * k.val + j.val) / 4 = k.val := by omega
  have hj : (4 * k.val + j.val) % 4 = j.val := by omega
  simp only [Nonce.byte, hk, hj, Fin.eta]

theorem Block.setWord_all (b : Block) (c0 c1 c2 c3 : Column) :
    (((b.setWord 0 c0).setWord 1 c1).setWord 2 c2).setWord 3 c3 = ⟨c0, c1, c2, c3⟩ := rfl

theorem toNat_eq_ctrHi_ctrLo (v : BitVec 64) : v.toNat = (ctrHi v).toNat * 2 ^ 32 + (ctrLo v).toNat := by
  conv_lhs => rw [← ctrHi_append_ctrLo v]
  rw [BitVec.toNat_append, ← Nat.shiftLeft_add_eq_or_of_lt (ctrLo v).isLt, Nat.shiftLeft_eq]

end Sys2Proof

namespace Sys2Proof.Machine

/-- An accepted write of a word of KEY stores the word and clears RKV (R20, R66). -/
theorem memWrite_key_idle {s : State} {off : BitVec 9} {k : Fin 4} (v : Word) (row : windowReg off = .key k)
    (idle : s.busy = false) :
    memWrite off v s = (s.setKey (s.key.setWord k (.ofWord v))).setRkv false := by
  simp only [memWrite, row, dataWrite_idle s idle]

/-- Settles O53: a word's bytes are those of the bus word, and the four words written make up KEY. -/
theorem busByteOrder : Obligations.BusByteOrder := by
  refine ⟨fun b k j => ?_, fun n k j => ?_, fun b k v => by simp, fun s idle => ?_, fun s => toNat_eq_ctrHi_ctrLo s.ctr⟩
  · rw [Column.extract_toWord, Block.byte_eq_word_byte]
  · rw [Column.extract_toWord, Nonce.byte_eq_word_byte]
  · rw [memWrite_key_idle (off := 0x010) (k := 0) _ rfl, memWrite_key_idle (off := 0x014) (k := 1) _ rfl,
      memWrite_key_idle (off := 0x018) (k := 2) _ rfl, memWrite_key_idle (off := 0x01C) (k := 3) _ rfl]
    · simp only [State.setRkv_key, State.setKey_key, Block.setWord_all]
      decide
    all_goals exact idle

end Sys2Proof.Machine

/-! ### Host writes (R66) -/

namespace Sys2Proof.Machine

/-- The writable data registers of R66. -/
def isWritableData : WinReg → Bool
  | .key _ => true
  | .stateReg _ => true
  | .din _ => true
  | .chain _ => true
  | .nonce _ => true
  | .ctrHi => true
  | .ctrLo => true
  | _ => false

/-- A word of KEY. -/
def isKey : WinReg → Bool
  | .key _ => true
  | _ => false

/-- The read-only registers and the reserved offsets (R57, R58). -/
def ignoresWrites : WinReg → Bool
  | .status => true
  | .gfres => true
  | .dout _ => true
  | .rkw _ => true
  | .reserved => true
  | _ => false

theorem isWritableData_iff_of_standsAt {r : WinReg} {off : Nat} (row : r.standsAt off) :
    isWritableData r = true ↔ (0x010 ≤ off ∧ off < 0x040) ∨ (0x050 ≤ off ∧ off < 0x070) := by
  cases r <;> simp only [WinReg.standsAt] at row <;>
    simp only [isWritableData, Bool.false_eq_true, false_iff, true_iff] <;> omega

theorem isKey_iff_of_standsAt {r : WinReg} {off : Nat} (row : r.standsAt off) :
    isKey r = true ↔ 0x010 ≤ off ∧ off < 0x020 := by
  cases r <;> simp only [WinReg.standsAt] at row <;>
    simp only [isKey, Bool.false_eq_true, false_iff, true_iff] <;> omega

theorem ignoresWrites_iff_of_standsAt {r : WinReg} {off : Nat} (row : r.standsAt off) :
    ignoresWrites r = true ↔ off = 0x004 ∨ off = 0x00C ∨ (0x040 ≤ off ∧ off < 0x050) ∨ 0x070 ≤ off := by
  cases r <;> simp only [WinReg.standsAt] at row <;>
    simp only [ignoresWrites, Bool.false_eq_true, false_iff, true_iff] <;> omega

/-- A read-only register and a reserved offset keep nothing of a write, BUSY or not (R57, R58). -/
theorem memWrite_ignored {off : BitVec 9} (v : Word) (s : State) (h : ignoresWrites (windowReg off) = true) :
    memWrite off v s = s := by
  unfold memWrite
  generalize windowReg off = r at h
  cases r <;> cases h <;> rfl

theorem memWrite_data_busy {off : BitVec 9} (v : Word) {s : State} (h : isWritableData (windowReg off) = true)
    (busy : s.busy = true) : memWrite off v s = recordError .writeWhileBusy s := by
  unfold memWrite
  generalize windowReg off = r at h
  cases r <;> cases h <;> exact dataWrite_busy s busy

/-! A stored word leaves every other word of the window as it was. -/

section
variable {r : WinReg} (s : State)

theorem regWord_setRkv (v : Bool) (hr : r ≠ .status) : regWord r (s.setRkv v) = regWord r s := by
  cases r with
  | status => exact absurd rfl hr
  | _ => rfl

theorem regWord_setKey_setWord {k : Fin 4} (c : Column) (hr : r ≠ .key k) :
    regWord r (s.setKey (s.key.setWord k c)) = regWord r s := by
  cases r with
  | key l => exact congrArg Column.toWord (Block.word_setWord_ne _ c fun hl => hr (congrArg _ hl))
  | _ => rfl

theorem regWord_setStateReg_setWord {k : Fin 4} (c : Column) (hr : r ≠ .stateReg k) :
    regWord r (s.setStateReg (s.stateReg.setWord k c)) = regWord r s := by
  cases r with
  | stateReg l => exact congrArg Column.toWord (Block.word_setWord_ne _ c fun hl => hr (congrArg _ hl))
  | _ => rfl

theorem regWord_setDin_setWord {k : Fin 4} (c : Column) (hr : r ≠ .din k) :
    regWord r (s.setDin (s.din.setWord k c)) = regWord r s := by
  cases r with
  | din l => exact congrArg Column.toWord (Block.word_setWord_ne _ c fun hl => hr (congrArg _ hl))
  | _ => rfl

theorem regWord_setChain_setWord {k : Fin 4} (c : Column) (hr : r ≠ .chain k) :
    regWord r (s.setChain (s.chain.setWord k c)) = regWord r s := by
  cases r with
  | chain l => exact congrArg Column.toWord (Block.word_setWord_ne _ c fun hl => hr (congrArg _ hl))
  | _ => rfl

theorem regWord_setNonce_setWord {k : Fin 2} (c : Column) (hr : r ≠ .nonce k) :
    regWord r (s.setNonce (s.nonce.setWord k c)) = regWord r s := by
  cases r with
  | nonce l => exact congrArg Column.toWord (Nonce.word_setWord_ne _ c fun hl => hr (congrArg _ hl))
  | _ => rfl

theorem regWord_setCtrHi (v : Word) (hr : r ≠ .ctrHi) : regWord r (s.setCtr (setCtrHi s.ctr v)) = regWord r s := by
  cases r with
  | ctrHi => exact absurd rfl hr
  | ctrLo => exact ctrLo_setCtrHi s.ctr v
  | _ => rfl

theorem regWord_setCtrLo (v : Word) (hr : r ≠ .ctrLo) : regWord r (s.setCtr (setCtrLo s.ctr v)) = regWord r s := by
  cases r with
  | ctrHi => exact ctrHi_setCtrLo s.ctr v
  | ctrLo => exact absurd rfl hr
  | _ => rfl

end

/-- The word `v` stored into the data register `r`: every other word is kept, but that a word of KEY clears RKV (R20, R66). -/
structure Stored (s : State) (r : WinReg) (v : Word) (t : State) : Prop where
  word : regWord r t = v
  others : ∀ r', r' ≠ r → r' ≠ .status → regWord r' t = regWord r' s
  rkv : t.rkv = if isKey r then false else s.rkv
  errcode : t.errcode = s.errcode
  busy : t.busy = s.busy
  pending : t.pending = s.pending

theorem memWrite_stored {off : BitVec 9} (v : Word) {s : State} (h : isWritableData (windowReg off) = true)
    (idle : s.busy = false) : Stored s (windowReg off) v (memWrite off v s) := by
  unfold memWrite
  generalize windowReg off = r at h
  cases r <;> cases h <;> dsimp only <;> rw [dataWrite_idle s idle]
  case key k =>
    exact ⟨by simp [regWord], fun _ hr hs => (regWord_setRkv _ _ hs).trans (regWord_setKey_setWord s _ hr),
      rfl, rfl, rfl, rfl⟩
  case stateReg k => exact ⟨by simp [regWord], fun _ hr _ => regWord_setStateReg_setWord s _ hr, rfl, rfl, rfl, rfl⟩
  case din k => exact ⟨by simp [regWord], fun _ hr _ => regWord_setDin_setWord s _ hr, rfl, rfl, rfl, rfl⟩
  case chain k => exact ⟨by simp [regWord], fun _ hr _ => regWord_setChain_setWord s _ hr, rfl, rfl, rfl, rfl⟩
  case nonce k => exact ⟨by simp [regWord], fun _ hr _ => regWord_setNonce_setWord s _ hr, rfl, rfl, rfl, rfl⟩
  case ctrHi => exact ⟨by simp [regWord], fun _ hr _ => regWord_setCtrHi s _ hr, rfl, rfl, rfl, rfl⟩
  case ctrLo => exact ⟨by simp [regWord], fun _ hr _ => regWord_setCtrLo s _ hr, rfl, rfl, rfl, rfl⟩

/-- Settles O54: the offset's row decides whether the word is latched, clears ERRCODE, is stored or is ignored. -/
theorem hostWrite : Obligations.HostWrite := by
  intro s off v h aligned
  have row : (windowReg (.ofNat 9 off)).standsAt off := (windowReg_eq_iff h aligned).1 rfl
  dsimp only
  rw [hostAccess_write s off v h aligned]
  refine ⟨?_, ?_, ?_, fun range => ⟨fun busy => ?_, fun idle => ?_⟩, fun range => ?_⟩
  · rintro rfl busy
    exact congrArg _ (cmdWrite_busy s busy)
  · rintro rfl idle
    exact congrArg _ (cmdWrite_idle s idle)
  · rintro rfl
    rfl
  · rw [memWrite_data_busy v ((isWritableData_iff_of_standsAt row).2 range) busy]
  · obtain ⟨word, others, rkv, errcode, busy, pending⟩ :=
      memWrite_stored v ((isWritableData_iff_of_standsAt row).2 range) idle
    obtain ⟨rk, dout, gfres, params, inputs, seen, draws⟩ := memWrite_frame s (.ofNat 9 off) v
    have low : 0x010 ≤ off := by omega
    simp only [isKey_iff_of_standsAt row, low, true_and] at rkv
    exact ⟨_, rfl, word, rkv, others, rk, dout, gfres, errcode, busy, pending, params, inputs, seen, draws⟩
  · rw [memWrite_ignored v s ((ignoresWrites_iff_of_standsAt row).2 range)]

end Sys2Proof.Machine

/-! ### Host reads (R67) -/

namespace Sys2Proof.Machine

/-- A read of the row `r`, where no pending command may write it, is answered with its exact contents and changes nothing
else (R59, R67). -/
theorem hostAccess_read_exact (s : State) {off : Nat} (r : WinReg) (row : r.standsAt off) (h : off < 0x200)
    (aligned : off % 4 = 0) (unwritten : s.busy = false ∨ writeSet s.pending s.rkv r = false) :
    hostAccess (.read (s.params.base + off) 4) s = .next (see (.value (regWord r s)) s) := by
  have hr : windowReg (.ofNat 9 off) = r := windowReg_of_standsAt h row
  rw [hostAccess_read s off h aligned, memRead_exact s (by rwa [hr]), hr]

theorem hostAccess_read_draw (s : State) {off : Nat} (h : off < 0x200) (aligned : off % 4 = 0) (busy : s.busy = true)
    (written : writeSet s.pending s.rkv (windowReg (.ofNat 9 off)) = true) :
    hostAccess (.read (s.params.base + off) 4) s = .next (see (.value (Config.draw s.draws)) (s.setDraws (s.draws + 1))) := by
  rw [hostAccess_read s off h aligned, memRead_draw s busy written]

theorem statusWord_eq_setWidth (s : State) : statusWord s =
    BitVec.setWidth 32 (BitVec.ofBool (s.errcode.code != 0) ++ BitVec.ofBool s.rkv ++ BitVec.ofBool s.busy) := by
  rw [statusWord, errf]
  cases s.errcode.code != 0 <;> cases s.rkv <;> cases s.busy <;> rfl

theorem errcodeWord_eq_setWidth (s : State) : errcodeWord s = s.errcode.code.setWidth 32 :=
  (BitVec.setWidth_eq_append (by decide)).symm

theorem regWord_gfres_eq_setWidth (s : State) : regWord .gfres s = s.gfres.setWidth 32 :=
  (BitVec.setWidth_eq_append (by decide)).symm

/-- While a command stays pending, nothing changes RKV (R67): the engine's step ends BUSY, and a host write is dropped. -/
theorem step_rkv_of_busy {s t : State} (h : step s = .next t) (hs : s.busy = true) (ht : t.busy = true) : t.rkv = s.rkv := by
  cases step_cases h with
  | executes rest u turn run state => subst state; cases ht
  | idles rest idle turn state => rw [hs] at idle; cases idle
  | resets n rest turn state => subst state; cases ht
  | reads addr rest off turn window aligned state => rw [state]; exact (read_sameRegisters off rest _ s).rkv
  | writes addr v rest off turn window aligned state =>
    obtain ⟨e, he⟩ := memWrite_busy (s.setInputs rest) off v hs
    rw [state, he]; rfl
  | busError a rest turn state => rw [state]; rfl

/-- Settles O55: the offset's row gives the word read, unless the pending command may write it; CMD, STATUS, ERRCODE and
the reserved offsets are in no write set. -/
theorem hostRead : Obligations.HostRead := by
  refine ⟨fun s off h aligned => ?_, fun s t => step_rkv_of_busy⟩
  intro result isExact
  have read {r : WinReg} (row : r.standsAt off) (unwritten : s.busy = false ∨ writeSet s.pending s.rkv r = false) :
      result = .next (see (.value (regWord r s)) s) := hostAccess_read_exact s r row h aligned unwritten
  have readExact {r : WinReg} (hx : isExact) (row : r.standsAt off) : result = .next (see (.value (regWord r s)) s) :=
    read row (by rwa [← windowReg_of_standsAt h row])
  obtain ⟨cmd, status, errcode, reserved⟩ := writeSet_exact_words s.pending s.rkv
  refine ⟨fun hx => ?_, fun row => read (r := .cmd) row (.inr cmd), fun row => ?_, fun row => ?_,
    fun row => read (r := .reserved) row (.inr reserved), fun hx row => ?_,
    fun hx k => ⟨readExact (r := .key k) hx, readExact (r := .stateReg k) hx, readExact (r := .din k) hx,
      readExact (r := .dout k) hx, readExact (r := .chain k) hx⟩,
    fun hx k => readExact (r := .nonce k) hx, readExact (r := .ctrHi), readExact (r := .ctrLo),
    fun hx i => readExact (r := .rkw i) hx⟩
  · obtain ⟨busy, written⟩ := not_or.1 hx
    exact hostAccess_read_draw s h aligned (by simpa using busy) (by simpa using written)
  · rw [← statusWord_eq_setWidth]; exact read (r := .status) row (.inr status)
  · rw [← errcodeWord_eq_setWidth]; exact read (r := .errcode) row (.inr errcode)
  · rw [← regWord_gfres_eq_setWidth]; exact readExact hx row

/-- Settles O56: the rows that hold nothing to read or keep nothing of a write are the map's. -/
theorem reservedAndReadOnlyWords : Obligations.ReservedAndReadOnlyWords := by
  intro s off v h aligned
  obtain ⟨cmd, -, -, reserved⟩ := writeSet_exact_words s.pending s.rkv
  have ignored (range : off = 0x004 ∨ off = 0x00C ∨ (0x040 ≤ off ∧ off < 0x050) ∨ 0x070 ≤ off) :
      hostAccess (.write (s.params.base + off) 4 v) s = .next s := by
    rw [hostAccess_write s off v h aligned,
      memWrite_ignored v s ((ignoresWrites_iff_of_standsAt ((windowReg_eq_iff h aligned).1 rfl)).2 range)]
  exact ⟨fun row => ⟨hostAccess_read_exact s .reserved row h aligned (.inr reserved), ignored (by omega)⟩,
    fun range => ignored (by omega), fun row => hostAccess_read_exact s .cmd row h aligned (.inr cmd)⟩

end Sys2Proof.Machine

/-! ### Free values, the order of events, bus errors (R50, R53, R61, R68) -/

namespace Sys2Proof.Machine

/-- A command draws no free value and shows the host nothing. -/
theorem executeWord_draws_seen {w : Word} {s t : State} (h : executeWord exec w s = .next t) :
    t.draws = s.draws ∧ t.seen = s.seen := by
  rcases executeWord_cases h with ⟨e, rfl, -⟩ | ⟨i, -, -, hx⟩
  · simp
  · exact ⟨(exec_frame hx).draws, (exec_frame hx).seen⟩

/-- Free values are drawn by reads alone, while BUSY = 1, of words that the pending command may write (R67). -/
theorem step_draws {s t : State} (h : step s = .next t) (hd : t.draws ≠ s.draws) :
    s.busy = true ∧ t.draws = s.draws + 1 ∧ ∃ r, readNext s r ∧ writeSet s.pending s.rkv r = true := by
  cases step_cases h with
  | executes rest u turn run state => subst state; exact absurd (executeWord_draws_seen run).1 hd
  | idles rest idle turn state => subst state; exact absurd rfl hd
  | resets n rest turn state => subst state; exact absurd rfl hd
  | reads addr rest off turn window aligned state =>
    subst state
    rcases memRead_state (s.setInputs rest) off with hr | ⟨hr, busy, written⟩ <;> rw [hr] at hd ⊢
    · exact absurd rfl hd
    · exact ⟨busy, rfl, _, ⟨addr, rest, off, turn, window, aligned, rfl⟩, written⟩
  | writes addr v rest off turn window aligned state => subst state; exact absurd (memWrite_frame _ off v).draws hd
  | busError a rest turn state => subst state; exact absurd rfl hd

/-- A step adds to what the host has seen, at most one answer if it is no reset (R68). -/
theorem step_seen {s t : State} (h : step s = .next t) :
    ∃ more, t.seen = s.seen ++ more ∧ (¬resetNext s → more.length ≤ 1) := by
  have quiet {u : State} (hu : u.seen = s.seen) : ∃ more, u.seen = s.seen ++ more ∧ (¬resetNext s → more.length ≤ 1) :=
    ⟨[], by rw [hu, List.append_nil], fun _ => by decide⟩
  cases step_cases h with
  | executes rest u turn run state => subst state; exact quiet (executeWord_draws_seen run).2
  | idles rest idle turn state => subst state; exact quiet rfl
  | resets n rest turn state => subst state; exact ⟨_, rfl, fun hn => absurd ⟨n, rest, turn⟩ hn⟩
  | reads addr rest off turn window aligned state =>
    subst state
    refine ⟨[.value (memRead off (s.setInputs rest)).1], ?_, fun _ => le_rfl⟩
    rcases memRead_state (s.setInputs rest) off with hr | ⟨hr, -⟩ <;> simp [hr]
  | writes addr v rest off turn window aligned state => subst state; exact quiet (memWrite_frame _ off v).seen
  | busError a rest turn state => subst state; exact ⟨[.busErrResponse], rfl, fun _ => le_rfl⟩

/-- Settles O59: of the events, only a read draws, and each adds what it shows the host. -/
theorem waitingHostDrawsNothing : Obligations.WaitingHostDrawsNothing :=
  ⟨fun _ _ => step_draws, fun _ _ => step_seen⟩

/-- Settles O12: the step by the event that comes next. -/
theorem stepTakesTheNextEvent : Obligations.StepTakesTheNextEvent :=
  ⟨fun _ _ _ => step_of_access, fun _ _ => step_of_idle_turn, fun _ => step_of_idle, step_of_idle rfl rfl⟩

theorem hostAccess_unadmitted {s : State} {a : Access} {off : BitVec 9}
    (window : windowOffset? s.params.base a.addr = some off) (h : a.size ≠ 4 ∨ off.toNat % 4 ≠ 0) :
    hostAccess a s = .next (see .busErrResponse s) := by
  have hadm : admitted off a.size = false := by
    rw [admitted, Bool.and_eq_false_iff]
    simpa using h
  simp [hostAccess, window, hadm]

theorem hostAccess_outside {s : State} {a : Access} (h : a.addr < s.params.base ∨ s.params.base + 0x200 ≤ a.addr) :
    hostAccess a s = .fault (.outsideWindow a.addr) := by
  have hnone : windowOffset? s.params.base a.addr = none := if_neg (by omega)
  simp only [hostAccess, hnone]

/-- Settles O57: the address decoder and the admission check turn the access away before it reaches a register. -/
theorem unadmittedAccesses : Obligations.UnadmittedAccesses :=
  ⟨fun _ _ _ => hostAccess_unadmitted, fun _ _ => hostAccess_outside, windowOffset?_base_add⟩

end Sys2Proof.Machine

/-! ### The encoder and the decoder are inverses (R72 to R77)

A row's format is read off the command it builds, so the word of that command is selected by the same row, and a word that a
row selects is fixed by its operand bits. -/

namespace Sys2Proof

/-- A command built by a row of the map is a command of that row (R78). -/
theorem Row.row_build {row : Row} (h : row ∈ opcodeMap) (w : Word) : (row.build w).row = row := by
  simp only [opcodeMap, controlRows, roundRows, modeRows, fieldRows, List.cons_append, List.nil_append,
    List.mem_cons, List.not_mem_nil, or_false] at h
  rcases h with h | h | h | h | h | h | h | h | h | h | h | h | h | h | h | h | h <;> subst h <;> rfl

/-- Every row of the map is the row of a command. -/
theorem Row.exists_instr {row : Row} (h : row ∈ opcodeMap) : ∃ i : Instr, i.row = row := ⟨row.build 0, Row.row_build h 0⟩

/-! The operand fields of an encoded command. -/

@[simp] theorem roundField_append (opc : Byte) (r : BitVec 4) : roundField (opc ++ (0#20 ++ r)) = r :=
  (BitVec.extractLsb'_append_eq_of_add_le (by decide)).trans BitVec.extractLsb'_append_eq_right

@[simp] theorem nbytesField_append (opc : Byte) (n : BitVec 5) : nbytesField (opc ++ (0#19 ++ n)) = n :=
  (BitVec.extractLsb'_append_eq_of_add_le (by decide)).trans BitVec.extractLsb'_append_eq_right

@[simp] theorem bField_append (opc a b : Byte) : bField (opc ++ (0#8 ++ a ++ b)) = b :=
  (BitVec.extractLsb'_append_eq_of_add_le (by decide)).trans BitVec.extractLsb'_append_eq_right

@[simp] theorem aField_append (opc a b : Byte) : aField (opc ++ (0#8 ++ a ++ b)) = a := calc
  aField (opc ++ (0#8 ++ a ++ b)) = (0#8 ++ a ++ b).extractLsb' 8 8 :=
    BitVec.extractLsb'_append_eq_of_add_le (by decide)
  _ = (0#8 ++ a).extractLsb' 0 8 := BitVec.extractLsb'_append_eq_of_le (by decide)
  _ = a := BitVec.extractLsb'_append_eq_right

/-- The row of a command reads the command's operands back from its word. -/
theorem Instr.build_encode (i : Instr) : i.row.build (encode i) = i := by
  cases i with
  | ark r => exact congrArg Instr.ark (roundField_append _ r)
  | ecbenc n => exact congrArg Instr.ecbenc (nbytesField_append _ n)
  | ecbdec n => exact congrArg Instr.ecbdec (nbytesField_append _ n)
  | cbcenc n => exact congrArg Instr.cbcenc (nbytesField_append _ n)
  | cbcdec n => exact congrArg Instr.cbcdec (nbytesField_append _ n)
  | ctrxor n => exact congrArg Instr.ctrxor (nbytesField_append _ n)
  | gfmul a b => exact congrArg₂ Instr.gfmul (aField_append _ a b) (bField_append _ a b)
  | _ => rfl

@[simp] theorem decode_encode (i : Instr) : decode (encode i) = .ok i := by
  have hopc : opcField (encode i) = i.row.opc := by rw [opcField_encode, Instr.row_opc]
  rw [decode_of_row i.row_mem hopc, if_pos (encode_selected i), i.build_encode]

/-- Settles O3: a command's row selects its word and reads its operands back. -/
theorem decodeOfEncode : Obligations.DecodeOfEncode := decode_encode

/-- Two words that one row selects are equal if their operand bits are (R72). -/
theorem Row.eq_of_selects {row : Row} {v w : Word} (hv : v &&& row.mask = row.pattern) (hw : w &&& row.mask = row.pattern)
    (operand : ∀ j < row.format.operandBits, v.getLsbD j = w.getLsbD j) : v = w := by
  obtain ⟨hvopc, hvzero⟩ := (Row.selects_iff row v).1 hv
  obtain ⟨hwopc, hwzero⟩ := (Row.selects_iff row w).1 hw
  rw [← opcField_append_low v, ← opcField_append_low w, hvopc, hwopc]
  congr 1
  apply BitVec.eq_of_getLsbD_eq
  intro j hj
  simp only [BitVec.getLsbD_extractLsb', hj, Nat.zero_add]
  by_cases h : j < row.format.operandBits
  · rw [operand j h]
  · rw [hvzero j (by omega) hj, hwzero j (by omega) hj]

/-- A row's command carries every operand bit of the word it is built from. -/
theorem encode_build_getLsbD {row : Row} (h : row ∈ opcodeMap) (w : Word) {j : Nat} (hj : j < row.format.operandBits) :
    (encode (row.build w)).getLsbD j = w.getLsbD j := by
  rw [encode_getLsbD _ (by have := row.format.operandBits_le; omega)]
  have mode (hj : j < 5) : (Instr.ecbenc (nbytesField w)).fields.getLsbD j = w.getLsbD j := by
    simp [modeFields_getLsbD, nbytesField, hj]
  have gf (hj : j < 16) : (Instr.gfmul (aField w) (bField w)).fields.getLsbD j = w.getLsbD j := by
    rw [gfmulFields_getLsbD]
    split
    · simp [bField, *]
    · have low : j - 8 < 8 := by omega
      have place : 8 + (j - 8) = j := by omega
      simp [aField, hj, low, place]
  obtain ⟨i, rfl⟩ := Row.exists_instr h
  cases i with
  | ark r =>
    have hj : j < 4 := hj
    simp [Instr.row, arkFields_getLsbD, roundField, hj]
  | ecbenc n => exact mode hj
  | ecbdec n => exact mode hj
  | cbcenc n => exact mode hj
  | cbcdec n => exact mode hj
  | ctrxor n => exact mode hj
  | gfmul a b => exact gf hj
  | _ => exact absurd hj (Nat.not_lt_zero j)

/-- The encoder inverts the decoder on every word that decodes (R72, R80). -/
theorem encode_of_decode {w : Word} {i : Instr} (h : decode w = .ok i) : encode i = w := by
  obtain ⟨row, hrow, selected, rfl⟩ := decode_eq_ok h
  have encoded : encode (row.build w) &&& row.mask = row.pattern := by
    have := encode_selected (row.build w)
    rwa [Row.row_build hrow] at this
  exact Row.eq_of_selects encoded selected fun j => encode_build_getLsbD hrow w

/-- Settles O4: the word and the encoding are selected by one row and have the same operand bits. -/
theorem encodeOfDecode : Obligations.EncodeOfDecode := fun _ _ => encode_of_decode

end Sys2Proof

/-! ### What a row's match and mask select (R77) -/

namespace Sys2Proof

theorem Row.pattern_toNat (row : Row) : row.pattern.toNat = row.opc.toNat * 2 ^ 24 := by
  rw [Row.pattern, BitVec.toNat_append, Nat.shiftLeft_eq]
  simp

/-- A row selects a word exactly if the word decodes to the row's command. -/
theorem selects_iff_decode {row : Row} (h : row ∈ opcodeMap) (w : Word) :
    w &&& row.mask = row.pattern ↔ decode w = .ok (row.build w) := by
  constructor
  · intro selected
    rw [decode_of_row h ((Row.selects_iff row w).1 selected).1, if_pos selected]
  · intro hd
    obtain ⟨row', hrow', selected, same⟩ := decode_eq_ok hd
    have : row = row' := by rw [← Row.row_build h w, ← Row.row_build hrow' w, same]
    rwa [this]

end Sys2Proof

namespace Sys2Proof.Machine

/-- Settles O5: the mask's bits are those of R72's table, and only its reserved bits can fail a word that has the OPC. -/
theorem matchAndMaskSelect : Obligations.MatchAndMaskSelect := by
  intro row h
  refine ⟨Row.pattern_toNat row, fun j => ?_, selects_iff_decode h, fun w ho => (not_selected_iff h ho).1⟩
  rw [Row.mask, Format.mask_getLsbD, operandBits_of_row h, decide_eq_true_iff]

end Sys2Proof.Machine

/-! ### Illegal opcodes, reserved bits, NOP (R79 to R81, R83) -/

namespace Sys2Proof.Machine

/-- The engine's step runs the command that PENDING decodes to, and clears BUSY (R83). -/
theorem step_of_decode {s : State} {rest : List Event} {i : Instr} (turn : engineNext s rest) (h : decode s.pending = .ok i) :
    step s = onNext (exec i (s.setInputs rest)) finish := by
  rw [step_of_engineNext turn, executeWord_ok h]

/-- The engine's step of a word that raises `e` records it, clears BUSY and does nothing else (R199). -/
theorem step_of_recordError {s : State} {rest : List Event} {e : ErrCode} (turn : engineNext s rest)
    (h : ∀ u, executeWord exec s.pending u = .next (recordError e u)) :
    step s = .next ((recordError e (s.setInputs rest)).setBusy false) := by
  rw [step_of_engineNext turn, h]
  rfl

/-- Settles O11: the engine's step executes PENDING's word, whose execution is its command's meaning. -/
theorem stepRunsDecodedCommand : Obligations.StepRunsDecodedCommand := fun _ _ _ => step_of_decode

/-- Settles O6: OPC selects no row exactly if it is unassigned, and such a word's execution records the error alone. -/
theorem illegalOpcodesRaise : Obligations.IllegalOpcodesRaise :=
  ⟨decode_eq_illegal_iff, by decide +kernel, fun _ _ turn hu => step_of_recordError turn (executeWord_illegal hu)⟩

/-- Settles O7: a word with an assigned OPC fails its row's mask exactly if a reserved bit is set. -/
theorem reservedBitsRaise : Obligations.ReservedBitsRaise :=
  ⟨decode_eq_reserved_iff, fun _ _ turn hu hb => step_of_recordError turn (executeWord_reserved hu hb), by decide⟩

/-- A state that every command but NOP changes: no error is kept, the round keys are not valid, and no transform fixes STATE. -/
def sensitiveState : State := State.reset.setStateReg (.ofHex 0x000102030405060708090A0B0C0D0E0F)

theorem transform_ne_self {f : Block → Block} (hf : f sensitiveState.stateReg ≠ sensitiveState.stateReg) :
    (Host.Outcome.next (sensitiveState.setStateReg (f sensitiveState.stateReg)) : Result) ≠ .next sensitiveState :=
  fun h => hf (congrArg State.stateReg (Host.Outcome.next.inj h))

/-- A command other than NOP changes some state: it records an error, makes the round keys valid, transforms STATE or writes
GFRES (R81). -/
theorem exec_changes_some_state {i : Instr} (hi : i ≠ .nop) : ∃ s, exec i s ≠ .next s := by
  cases hw : i.wellFormed with
  | false =>
    refine ⟨sensitiveState, fun h => ?_⟩
    rw [exec_of_not_wellFormed _ hw, recordError_of_none _ rfl] at h
    have kept := congrArg State.errcode (Host.Outcome.next.inj h)
    cases i <;> cases kept
  | true =>
    cases hu : usesRoundKeys i with
    | true =>
      refine ⟨sensitiveState, fun h => ?_⟩
      have valid : sensitiveState.rkv = true := ((exec_legal_cases hw h).roundKeys_of_uses hu).2
      cases valid
    | false =>
      cases i with
      | nop => exact absurd rfl hi
      | keyexp => exact ⟨sensitiveState, fun h => by cases congrArg State.rkv (Host.Outcome.next.inj h)⟩
      | subb => exact ⟨_, transform_ne_self (by decide +kernel)⟩
      | isubb => exact ⟨_, transform_ne_self (by decide +kernel)⟩
      | shrow => exact ⟨_, transform_ne_self (by decide +kernel)⟩
      | ishrow => exact ⟨_, transform_ne_self (by decide +kernel)⟩
      | mixcol => exact ⟨_, transform_ne_self (by decide +kernel)⟩
      | imixcol => exact ⟨_, transform_ne_self (by decide +kernel)⟩
      | gfmul a b =>
        refine ⟨State.reset.setGfres (multiply a b + 1), fun h => ?_⟩
        have same : multiply a b = multiply a b + 1 := congrArg State.gfres (Host.Outcome.next.inj h)
        simp at same
      | _ => cases hu

/-- The mask of NOP's row leaves no bit out (R81). -/
theorem decode_of_nop_opc {w : Word} (ho : opcField w = 0x00) (hw : w ≠ 0x00000000#32) :
    decode w = .error .reservedNonzero := by
  have unselected : ¬(w &&& Instr.nop.row.mask = Instr.nop.row.pattern) := by
    rw [show Instr.nop.row.mask = BitVec.allOnes 32 from rfl, BitVec.and_allOnes]
    exact hw
  rw [decode_of_row Instr.nop.row_mem ho, if_neg unselected]

/-- Settles O8: every other command changes some state, and NOP's mask admits the word 0 alone. -/
theorem onlyNopHasNoEffect : Obligations.OnlyNopHasNoEffect := by
  refine ⟨by decide, fun i => ⟨fun unchanged => ?_, fun hi s => by rw [hi, exec_nop]⟩, fun _ => decode_of_nop_opc⟩
  by_contra hi
  obtain ⟨s, hs⟩ := exec_changes_some_state hi
  exact hs (unchanged s)

end Sys2Proof.Machine

/-! ### Runs of a schedule that stays in the window (R61, R83, R231)

A step takes one event off the schedule, so induction on the schedule carries a run to its end. -/

namespace Sys2Proof.Machine

variable {s t : State}

/-- A step takes the next event, and nothing puts one back. -/
theorem step_inputs (h : step s = .next t) : t.inputs = s.inputs.tail := by
  have taken {rest : List Event} (turn : s.inputs = .engine :: rest ∨ (s.inputs = [] ∧ rest = [])) : rest = s.inputs.tail := by
    rcases turn with hi | ⟨hi, rfl⟩ <;> rw [hi] <;> rfl
  cases step_cases h with
  | executes rest u turn run state =>
    have hu : u.inputs = rest := by
      rcases executeWord_cases run with ⟨e, rfl, -⟩ | ⟨i, -, -, hx⟩
      · simp
      · exact (exec_frame hx).inputs
    rw [state, State.setBusy_inputs, hu, taken turn.2]
  | idles rest idle turn state => rw [state, State.setInputs_inputs, taken turn]
  | resets n rest turn state => rw [state, turn]; rfl
  | reads addr rest off turn window aligned state =>
    rw [state, turn]
    rcases memRead_state (s.setInputs rest) off with hr | ⟨hr, -⟩ <;> simp [hr]
  | writes addr v rest off turn window aligned state => rw [state, turn, (memWrite_frame _ off v).inputs]; rfl
  | busError a rest turn state => rw [state, turn]; rfl

/-- No step of a schedule that stays in the window stops (R50). -/
theorem step_answers_next (safe : safeSchedule s = true) : ∃ t, step s = .next t := by
  cases h : step s with
  | next t => exact ⟨t, rfl⟩
  | refused e => exact absurd h step_not_refused
  | fault e =>
    obtain ⟨a, rest, hi, outside, -⟩ := step_fault h
    have inside := List.all_eq_true.1 safe (.access a) (by simp [hi])
    simp [inWindow, outside] at inside

theorem step_keeps_safeSchedule (h : step s = .next t) (safe : safeSchedule s = true) : safeSchedule t = true := by
  rw [safeSchedule, step_params h, step_inputs h, List.all_eq_true]
  exact fun e he => List.all_eq_true.1 safe e (List.mem_of_mem_tail he)

/-- With no event left, the step leaves the engine idle (R231). -/
theorem step_idle_of_no_inputs (hi : s.inputs = []) (h : step s = .next t) : t.busy = false := by
  cases hb : s.busy with
  | false => rw [step_of_idle hi hb] at h; cases h; exact hb
  | true =>
    obtain ⟨u, hu⟩ := executeWord_answers_next s.pending (s.setInputs [])
    rw [step_of_engineNext ⟨hb, .inr ⟨hi, rfl⟩⟩, hu] at h
    cases h
    rfl

/-- A schedule that stays in the window runs to its end, and one step more leaves the engine idle. -/
theorem run_to_end {events : List Event} (hi : s.inputs = events) (safe : safeSchedule s = true) :
    ∃ t, core.run (events.length + 1) s = .next t ∧ t.busy = false ∧ t.inputs = [] := by
  induction events generalizing s with
  | nil =>
    obtain ⟨t, ht⟩ := step_answers_next safe
    exact ⟨t, core_run_succ 0 ht, step_idle_of_no_inputs hi ht, by rw [step_inputs ht, hi]; rfl⟩
  | cons e rest ih =>
    obtain ⟨t, ht⟩ := step_answers_next safe
    rw [List.length_cons, core_run_succ _ ht]
    exact ih (by rw [step_inputs ht, hi]; rfl) (step_keeps_safeSchedule ht safe)

/-- `u` is `s` but for ERRCODE, the schedule, the host's record and the count of free values. -/
def SameCommand (s u : State) : Prop :=
  u = (((s.setErrcode u.errcode).setInputs u.inputs).setSeen u.seen).setDraws u.draws

/-- Of a host access before the engine's turn, a pending command can see nothing (R67, R199). -/
theorem step_of_access_busy {a : Access} {rest : List Event} (hi : s.inputs = .access a :: rest) (safe : safeSchedule s = true)
    (busy : s.busy = true) : ∃ t, step s = .next t ∧ SameCommand s t := by
  have inside : inWindow s.params.base (.access a) = true := List.all_eq_true.1 safe _ (by simp [hi])
  obtain ⟨e, seen, draws, h⟩ := hostAccess_busy (s.setInputs rest) a busy inside
  refine ⟨_, (step_of_access hi).trans h, ?_⟩
  rfl

theorem SameCommand.trans {u : State} (hst : SameCommand s t) (htu : SameCommand t u) : SameCommand s u := by
  rw [SameCommand] at hst htu ⊢
  rw [hst] at htu
  exact htu

/-- With no reset to come, the run of a pending command comes to the engine's turn (R231). -/
theorem run_to_engineNext {events : List Event} (hi : s.inputs = events) (safe : safeSchedule s = true) (busy : s.busy = true)
    (noReset : ∀ n, Event.reset n ∉ events) :
    ∃ (n : Nat) (u : State) (rest : List Event), n ≤ events.length ∧ core.run n s = .next u ∧ engineNext u rest ∧
      SameCommand s u := by
  induction events generalizing s with
  | nil => exact ⟨0, s, [], le_rfl, rfl, ⟨busy, .inr ⟨hi, rfl⟩⟩, rfl⟩
  | cons e rest ih =>
    cases e with
    | engine => exact ⟨0, s, rest, Nat.zero_le _, rfl, ⟨busy, .inl hi⟩, rfl⟩
    | reset n => exact absurd List.mem_cons_self (noReset n)
    | access a =>
      obtain ⟨t, ht, same⟩ := step_of_access_busy hi safe busy
      have hbusy : t.busy = true := by rw [same]; exact busy
      obtain ⟨n, u, later, hn, run, turn, same'⟩ := ih (by rw [step_inputs ht, hi]; rfl) (step_keeps_safeSchedule ht safe) hbusy
        fun n hm => noReset n (List.mem_cons_of_mem _ hm)
      exact ⟨n + 1, u, later, Nat.succ_le_succ hn, by rw [core_run_succ n ht, run], turn, same.trans same'⟩

/-- Settles O13: induction on the schedule, whose next event each step takes. -/
theorem pendingCommandCompletes : Obligations.PendingCommandCompletes := by
  refine ⟨fun s safe => run_to_end rfl safe, fun s safe busy noReset => ?_⟩
  obtain ⟨n, u, rest, hn, run, turn, same⟩ := run_to_engineNext rfl safe busy noReset
  have pending : u.pending = s.pending := by rw [same]; rfl
  exact ⟨n, u, rest, hn, run, turn, same, by rw [step_of_engineNext turn, pending]; rfl⟩

end Sys2Proof.Machine

/-! ### The write sets (R84)

R39's table says which commands can change a register; each of them has the register's words in its write set. -/

namespace Sys2Proof.Machine

theorem writeSet_of_row {w : Word} {row : Row} (h : row ∈ opcodeMap) (ho : opcField w = row.opc) (rkv : Bool) (r : WinReg) :
    writeSet w rkv r = commandWrites (row.build w) rkv r := by
  rw [writeSet, ho, opcodeRow?_of_mem h]

theorem writeSet_of_decode {w : Word} {i : Instr} (h : decode w = .ok i) (rkv : Bool) (r : WinReg) :
    writeSet w rkv r = commandWrites i rkv r := by
  obtain ⟨row, hrow, selected, rfl⟩ := decode_eq_ok h
  exact writeSet_of_row hrow ((Row.selects_iff row w).1 selected).1 rkv r

theorem writeSet_of_unassigned {w : Word} (h : unassignedOpc (opcField w).toNat = true) (rkv : Bool) (r : WinReg) :
    writeSet w rkv r = false := by
  rw [writeSet, (opcodeRow?_eq_none_iff _).2 h]

theorem isGfres_eq (r : WinReg) : isGfres r = (r == .gfres) := by cases r <;> rfl

/-- A window word other than STATUS and ERRCODE shows its own register alone. -/
theorem regWord_congr {s t : State} {r : WinReg} (status : r ≠ .status) (errcode : r ≠ .errcode) (key : t.key = s.key)
    (din : t.din = s.din) (nonce : t.nonce = s.nonce) (stateReg : isStateReg r = true → t.stateReg = s.stateReg)
    (rk : isRkw r = true → t.rk = s.rk) (dout : isDout r = true → t.dout = s.dout)
    (chain : isChain r = true → t.chain = s.chain) (ctr : isCtr r = true → t.ctr = s.ctr)
    (gfres : isGfres r = true → t.gfres = s.gfres) : regWord r t = regWord r s := by
  cases r with
  | status => exact absurd rfl status
  | errcode => exact absurd rfl errcode
  | cmd => rfl
  | reserved => rfl
  | key k => simp only [regWord, key]
  | din k => simp only [regWord, din]
  | nonce k => simp only [regWord, nonce]
  | stateReg k => simp only [regWord, stateReg rfl]
  | rkw k => simp only [regWord, rk rfl]
  | dout k => simp only [regWord, dout rfl]
  | chain k => simp only [regWord, chain rfl]
  | ctrHi => simp only [regWord, ctr rfl]
  | ctrLo => simp only [regWord, ctr rfl]
  | gfres => simp only [regWord, gfres rfl]

/-- A legal command changes no window word outside its write set: R39's table says which commands can change a register, and
each of them has the register's words in its write set (R84). -/
theorem LegalCase.regWord_of_unwritten {s t : State} {i : Instr} {r : WinReg} (h : LegalCase s i t) (frame : CommandFrame s t)
    (unwritten : commandWrites i s.rkv r = false) (status : r ≠ .status) (errcode : r ≠ .errcode) :
    regWord r t = regWord r s := by
  have w := h.commandWriters
  have kept {p : Prop} (written : ¬p → commandWrites i s.rkv r = true) : p := by
    by_contra hp
    rw [written hp] at unwritten
    cases unwritten
  refine regWord_congr status errcode frame.key frame.din frame.nonce ?stateReg ?rk ?dout ?chain ?ctr ?gfres <;>
    refine fun hr => kept fun hc => ?_
  case stateReg =>
    have command := w.stateReg hc
    fin_cases command <;> simp [commandWrites, hr]
  case rk =>
    rcases h.roundKeys with ⟨hrk, -⟩ | ⟨-, -, rfl | ⟨invalid, uses⟩⟩
    · exact absurd hrk hc
    · exact hr
    · cases i <;> cases uses <;> simp [commandWrites, invalid, hr]
  case dout =>
    obtain ⟨n, command⟩ := w.dout hc
    fin_cases command <;> simp [commandWrites, hr]
  case chain => rcases w.chain hc with rfl | rfl <;> simp [commandWrites, hr]
  case ctr =>
    obtain ⟨n, rfl⟩ := w.ctr hc
    simp [commandWrites, hr]
  case gfres =>
    obtain ⟨a, b, rfl⟩ := w.gfres hc
    exact hr

theorem regWord_recordError {r : WinReg} (e : ErrCode) (s : State) (status : r ≠ .status) (errcode : r ≠ .errcode) :
    regWord r (recordError e s) = regWord r s :=
  regWord_congr status errcode (by simp) (by simp) (by simp) (by simp) (by simp) (by simp) (by simp) (by simp) (by simp)

/-- What the engine's step adds to `Execute` is seen in STATUS alone (R83). -/
theorem regWord_engineStep {s t : State} {rest : List Event} {r : WinReg} (turn : engineNext s rest) (h : step s = .next t)
    (status : r ≠ .status) (errcode : r ≠ .errcode) :
    ∃ u, executeWord exec s.pending (s.setInputs rest) = .next u ∧ regWord r t = regWord r u := by
  obtain ⟨u, hu⟩ := executeWord_answers_next s.pending (s.setInputs rest)
  rw [step_of_engineNext turn, hu] at h
  cases h
  exact ⟨u, hu, by apply regWord_congr status errcode <;> simp⟩

/-- Execution changes no window word outside the word's write set but STATUS and ERRCODE (R84). -/
theorem executeWord_regWord_of_unwritten {w : Word} {s t : State} {r : WinReg} (h : executeWord exec w s = .next t)
    (unwritten : writeSet w s.rkv r = false) (status : r ≠ .status) (errcode : r ≠ .errcode) : regWord r t = regWord r s := by
  rcases executeWord_cases h with ⟨e, rfl, -⟩ | ⟨i, hd, hw, hx⟩
  · exact regWord_recordError e s status errcode
  · rw [writeSet_of_decode hd] at unwritten
    exact (exec_legal_cases hw hx).regWord_of_unwritten (exec_frame hx) unwritten status errcode

/-- An assigned OPC and no reserved bit set make the command of the OPC's row. -/
theorem decode_of_opc {w : Word} {row : Row} (h : row ∈ opcodeMap) (ho : opcField w = row.opc) (hb : ¬reservedBitSet w) :
    decode w = .ok (row.build w) :=
  (selects_iff_decode h w).1 (by_contra fun hs => hb ((not_selected_iff h ho).1 hs))

theorem decode_ark {w : Word} (ho : (opcField w).toNat = 0x16) (hb : ¬reservedBitSet w) : decode w = .ok (.ark (roundField w)) :=
  decode_of_opc (Instr.ark (roundField w)).row_mem (BitVec.eq_of_toNat_eq ho) hb

theorem decode_ctrxor {w : Word} (ho : (opcField w).toNat = 0x24) (hb : ¬reservedBitSet w) :
    decode w = .ok (.ctrxor (nbytesField w)) :=
  decode_of_opc (Instr.ctrxor (nbytesField w)).row_mem (BitVec.eq_of_toNat_eq ho) hb

theorem decode_fullBlock {w : Word} (ho : 0x20 ≤ (opcField w).toNat ∧ (opcField w).toNat ≤ 0x23) (hb : ¬reservedBitSet w) :
    ∃ i ∈ fullBlockCommands (nbytesField w), decode w = .ok i := by
  have opc : (opcField w).toNat = 0x20 ∨ (opcField w).toNat = 0x21 ∨ (opcField w).toNat = 0x22 ∨
      (opcField w).toNat = 0x23 := by
    omega
  have command (i : Instr) (hi : i ∈ fullBlockCommands (nbytesField w)) (ho : (opcField w).toNat = i.row.opc.toNat)
      (operand : i.row.build w = i) : ∃ i ∈ fullBlockCommands (nbytesField w), decode w = .ok i :=
    ⟨i, hi, by rw [decode_of_opc i.row_mem (BitVec.eq_of_toNat_eq ho) hb, operand]⟩
  rcases opc with ho | ho | ho | ho
  · exact command (.ecbenc _) (by simp [fullBlockCommands]) ho rfl
  · exact command (.ecbdec _) (by simp [fullBlockCommands]) ho rfl
  · exact command (.cbcenc _) (by simp [fullBlockCommands]) ho rfl
  · exact command (.cbcdec _) (by simp [fullBlockCommands]) ho rfl

theorem exec_fullBlock_illegal {n : BitVec 5} {i : Instr} (hi : i ∈ fullBlockCommands n) (hn : n ≠ 16) (s : State) :
    exec i s = .next (recordError .length s) := by
  fin_cases hi
  · exact exec_ecbenc_illegal s hn
  · exact exec_ecbdec_illegal s hn
  · exact exec_cbcenc_illegal s hn
  · exact exec_cbcdec_illegal s hn

/-- Execution of a word that raises `e` records `e` and does nothing else (R199, R200). -/
theorem executeWord_of_raises {w : Word} {e : ErrCode} (h : raises w e) (s : State) :
    executeWord exec w s = .next (recordError e s) := by
  obtain ⟨hu, rfl⟩ | ⟨hu, hb, rfl⟩ | ⟨-, hb, ho, hn, rfl⟩ | ⟨-, hb, hlo, hhi, hn, rfl⟩ | ⟨-, hb, ho, hn, rfl⟩ := h
  · exact executeWord_illegal hu s
  · exact executeWord_reserved hu hb s
  · rw [executeWord_ok (decode_ark ho hb), exec_ark_illegal s hn]
  · obtain ⟨i, hi, hd⟩ := decode_fullBlock ⟨hlo, hhi⟩ hb
    rw [executeWord_ok hd, exec_fullBlock_illegal hi (fun h16 => hn (by rw [h16]; rfl))]
  · rw [executeWord_ok (decode_ctrxor ho hb), exec_ctrxor_illegal s hn]

/-- Settles O58: an unassigned OPC has no row and writes nothing, and an assigned one has its row's command; a failing word
records its error alone. -/
theorem writeSets : Obligations.WriteSets := by
  refine ⟨fun w rkv r => ?_, fun s t rest r turn h unwritten status errcode => ?_,
    fun s t rest e r turn h error status errcode => ?_⟩
  · cases hu : unassignedOpc (opcField w).toNat with
    | true =>
      rw [writeSet_of_unassigned hu]
      simp only [unassignedOpc, Bool.or_eq_true, Bool.and_eq_true, decide_eq_true_eq, beq_iff_eq] at hu
      repeat rw [if_neg (by omega)]
    | false =>
      obtain ⟨row, hrow, ho⟩ := row_of_assigned hu
      rw [writeSet_of_row hrow ho.symm, ← ho, ← isGfres_eq]
      obtain ⟨i, rfl⟩ := Row.exists_instr hrow
      cases i <;> rfl
  · obtain ⟨u, hu, ht⟩ := regWord_engineStep turn h status errcode
    rw [ht]
    exact (executeWord_regWord_of_unwritten hu unwritten status errcode :)
  · obtain ⟨u, hu, ht⟩ := regWord_engineStep turn h status errcode
    rw [executeWord_of_raises error] at hu
    cases hu
    rw [ht]
    exact regWord_recordError e _ status errcode

end Sys2Proof.Machine

/-! ### The assembler (R85, R86) -/

namespace Sys2Proof

/-- The word of a command as a number (R85). -/
theorem encode_eq_ofNat (i : Instr) : encode i = .ofNat 32 (i.opc.toNat * 2 ^ 24 + i.fields.toNat) := by
  apply BitVec.eq_of_toNat_eq
  rw [BitVec.toNat_ofNat, ← encode_toNat, Nat.mod_eq_of_lt (encode i).isLt]

theorem encode_inj {i j : Instr} : encode i = encode j ↔ i = j :=
  ⟨fun h => Except.ok.inj (by rw [← decode_encode i, h, decode_encode]), congrArg encode⟩

theorem zeroAppend_toNat {m n : Nat} (x : BitVec n) : (0#m ++ x).toNat = x.toNat := by simp

theorem gfmulFields_toNat (a b : Byte) : (Instr.gfmul a b).fields.toNat = a.toNat * 2 ^ 8 + b.toNat := by
  have h : (Instr.gfmul a b).fields.toNat = ((0#8 ++ a) ++ b).toNat := rfl
  rw [h, BitVec.toNat_append, zeroAppend_toNat, Nat.shiftLeft_eq, Nat.mul_comm, ← Nat.two_pow_add_eq_or_of_lt b.isLt]

end Sys2Proof

namespace Sys2Proof.Machine

theorem fieldAppend_toNat {m width v : Nat} (h : v < 2 ^ width) : (0#m ++ BitVec.ofNat width v).toNat = v := by
  rw [zeroAppend_toNat, BitVec.toNat_ofNat, Nat.mod_eq_of_lt h]

/-- A line with an operand in a field of `width` bits: its word as a number, or a refusal where the operand does not fit. -/
theorem fitField_eq {width v opc fields : Nat} {i : Instr} (hopc : i.opc.toNat = opc)
    (hfields : v < 2 ^ width → i.fields.toNat = fields) :
    fitField width v i = if v ≤ 2 ^ width - 1 then some (.ofNat 32 (opc * 2 ^ 24 + fields)) else none := by
  simp only [fitField, Nat.le_sub_one_iff_lt (Nat.two_pow_pos width)]
  split
  · rw [encode_eq_ofNat, hopc, hfields ‹_›]
  · rfl

theorem assemble_ark (r : Nat) : assemble (.ark r) = if r ≤ 15 then some (.ofNat 32 (0x16 * 2 ^ 24 + r)) else none :=
  fitField_eq rfl (fieldAppend_toNat (m := 20))

theorem assemble_gfmul (a b : Nat) : assemble (.gfmul a b) =
    if a ≤ 255 ∧ b ≤ 255 then some (.ofNat 32 (0x30 * 2 ^ 24 + a * 2 ^ 8 + b)) else none := by
  by_cases ha : a < 2 ^ 8
  · have fields (hb : b < 2 ^ 8) : (Instr.gfmul (.ofNat 8 a) (.ofNat 8 b)).fields.toNat = a * 2 ^ 8 + b := by
      rw [gfmulFields_toNat, BitVec.toNat_ofNat, BitVec.toNat_ofNat, Nat.mod_eq_of_lt ha, Nat.mod_eq_of_lt hb]
    have ha' : a ≤ 255 := by omega
    rw [assemble, if_pos ha, fitField_eq (opc := 0x30) rfl fields, Nat.add_assoc]
    simp only [ha', true_and, Nat.reducePow, Nat.reduceSub]
  · rw [assemble, if_neg ha, if_neg (by omega)]

theorem fitField_eq_encode_iff {width v : Nat} {i j : Instr} : fitField width v i = some (encode j) ↔ v < 2 ^ width ∧ i = j := by
  rw [fitField, ite_eq_iff]
  simp [encode_inj]

/-! Warnings. -/

/-- A line other than `.word` is warned of exactly if it assembles to a command whose operand is out of range (R85). -/
theorem warns_iff {l : AsmLine} (hl : ∀ n, l ≠ .word n) :
    warns l = true ↔ ∃ i, assemble l = some (encode i) ∧ i.wellFormed = false := by
  unfold warns
  split
  · exact absurd rfl (hl _)
  · rename_i h
    simp [h]
  · rename_i w _ h
    rw [h]
    cases hd : decode w with
    | error e =>
      refine iff_of_false Bool.false_ne_true fun ⟨i, hw, _⟩ => ?_
      rw [Option.some.inj hw, decode_encode] at hd
      cases hd
    | ok i =>
      have word (j : Instr) : some w = some (encode j) ↔ i = j := by
        rw [← encode_of_decode hd, Option.some_inj, encode_inj]
      simp [word]

theorem warns_eq_false {l : AsmLine} {i : Instr} (hl : ∀ n, l ≠ .word n) (h : assemble l = some (encode i))
    (hw : i.wellFormed = true) : warns l = false := by
  rw [Bool.eq_false_iff, ne_eq, warns_iff hl, h]
  simp [encode_inj, hw]

theorem warns_gfmul (a b : Nat) : warns (.gfmul a b) = false := by
  rw [Bool.eq_false_iff, ne_eq, warns_iff (by simp)]
  rintro ⟨i, h, hw⟩
  rw [assemble, Option.ite_none_right_eq_some, fitField_eq_encode_iff] at h
  obtain ⟨-, -, rfl⟩ := h
  cases hw

theorem warns_iff_of_fitField {l : AsmLine} {width v : Nat} {i : Instr} (hl : ∀ n, l ≠ .word n)
    (h : assemble l = fitField width v i) : warns l = true ↔ v < 2 ^ width ∧ i.wellFormed = false := by
  rw [warns_iff hl, h]
  simp [fitField_eq_encode_iff]


theorem warns_ark (r : Nat) : warns (.ark r) = true ↔ 11 ≤ r ∧ r ≤ 15 := by
  have fits : assemble (.ark r) = fitField 4 r (.ark (.ofNat 4 r)) := rfl
  rw [warns_iff_of_fitField (by simp) fits]
  simp only [Instr.wellFormed, decide_eq_false_iff_not, BitVec.toNat_ofNat]
  omega

theorem warns_ctrxor (n : Nat) : warns (.ctrxor n) = true ↔ n = 0 ∨ (17 ≤ n ∧ n ≤ 31) := by
  have fits : assemble (.ctrxor n) = fitField 5 n (.ctrxor (.ofNat 5 n)) := rfl
  rw [warns_iff_of_fitField (by simp) fits]
  simp only [Instr.wellFormed, Bool.and_eq_false_iff, decide_eq_false_iff_not, BitVec.toNat_ofNat]
  omega

/-- The ECB and CBC lines take 16 alone (R74). -/
theorem warns_fullBlock {l : AsmLine} {n : Nat} {i : Instr} (hl : ∀ n, l ≠ .word n) (fits : assemble l = fitField 5 n i)
    (legal : i.wellFormed = (BitVec.ofNat 5 n == 16)) : warns l = true ↔ n ≤ 31 ∧ n ≠ 16 := by
  rw [warns_iff_of_fitField hl fits, legal, beq_eq_false_iff_ne, ne_eq, ← BitVec.toNat_inj, BitVec.toNat_ofNat]
  simp only [BitVec.reduceToNat]
  omega

/-- R85's table of warnings, line by line. -/
theorem warns_table (l : AsmLine) : warns l = true ↔
    (∃ r, l = .ark r ∧ 11 ≤ r ∧ r ≤ 15) ∨
    (∃ n, (l = .ecbenc n ∨ l = .ecbdec n ∨ l = .cbcenc n ∨ l = .cbcdec n) ∧ n ≤ 31 ∧ n ≠ 16) ∨
    (∃ n, l = .ctrxor n ∧ (n = 0 ∨ (17 ≤ n ∧ n ≤ 31))) := by
  cases l with
  | ark r => simp [warns_ark]
  | ecbenc n => rw [warns_fullBlock (n := n) (by simp) rfl rfl]; simp
  | ecbdec n => rw [warns_fullBlock (n := n) (by simp) rfl rfl]; simp
  | cbcenc n => rw [warns_fullBlock (n := n) (by simp) rfl rfl]; simp
  | cbcdec n => rw [warns_fullBlock (n := n) (by simp) rfl rfl]; simp
  | ctrxor n => simp [warns_ctrxor]
  | gfmul a b => simp [warns_gfmul]
  | word n => simp [warns]
  | _ => rw [warns_eq_false (by simp) rfl rfl]; simp

/-- Execution of a line that is warned of records ROUND_RANGE for ARK and LENGTH for the mode commands (R85, R195, R196). -/
theorem executeWord_of_warns {l : AsmLine} (s : State) (h : warns l = true) : ∃ w, assemble l = some w ∧
    executeWord exec w s = .next (recordError (if opcField w = 0x16 then .roundRange else .length) s) := by
  have hl (n : Nat) : l ≠ .word n := by rintro rfl; cases h
  obtain ⟨i, assembled, illegal⟩ := (warns_iff hl).1 h
  refine ⟨encode i, assembled, ?_⟩
  rw [executeWord_ok (decode_encode i), exec_of_not_wellFormed s illegal, opcField_encode]
  cases i <;> rfl

/-! Pseudo-instructions. -/

theorem assemble_ark_of_fits {r : Nat} (h : r < 2 ^ 4) : assemble (.ark r) = some (encode (.ark (.ofNat 4 r))) := if_pos h

theorem expand_encround {r : Nat} (h : 1 ≤ r ∧ r ≤ 9) : ∃ ls, Pseudo.expand (.encround r) = some ls ∧
    ls.map assemble = (encroundCommands r).map (fun i => some (encode i)) := by
  refine ⟨_, if_pos h, ?_⟩
  simp only [List.map_cons, assemble_ark_of_fits (show r < 2 ^ 4 by omega)]
  rfl

theorem expand_decround {r : Nat} (h : 1 ≤ r ∧ r ≤ 9) : ∃ ls, Pseudo.expand (.decround r) = some ls ∧
    ls.map assemble = (decroundCommands r).map (fun i => some (encode i)) := by
  refine ⟨_, if_pos h, ?_⟩
  simp only [List.map_cons, assemble_ark_of_fits (show r < 2 ^ 4 by omega)]
  rfl

/-- Settles O10: an operand's place makes the word's number, and a line is warned of exactly if its command is not well formed. -/
theorem assemblerLinesAndPseudoInstructions : Obligations.AssemblerLinesAndPseudoInstructions := by
  have mode {opc n : Nat} {i : Instr} (hopc : i.opc.toNat = opc) (hfields : i.fields = 0#19 ++ BitVec.ofNat 5 n) :
      fitField 5 n i = if n ≤ 31 then some (.ofNat 32 (opc * 2 ^ 24 + n)) else none :=
    fitField_eq hopc fun h => by rw [hfields, fieldAppend_toNat h]
  exact ⟨by decide, assemble_ark, fun _ => mode rfl rfl, fun _ => mode rfl rfl, fun _ => mode rfl rfl, fun _ => mode rfl rfl,
    fun _ => mode rfl rfl, assemble_gfmul, fun _ => rfl, by decide, by decide, by decide, by decide, warns_table,
    fun _ => executeWord_of_warns, rfl, rfl, rfl, rfl, rfl, fun _ => rfl, fun _ => rfl, fun _ => rfl, rfl, rfl,
    fun _ hlo hhi => ⟨expand_encround ⟨hlo, hhi⟩, expand_decround ⟨hlo, hhi⟩⟩⟩

end Sys2Proof.Machine

/-! ### The opcode map and example words (R78, R85) -/

namespace Sys2Proof

/-- Settles O1: the map's rows, read off as a table and decoded one by one. -/
theorem opcodeMapHasTheSeventeenRows : Obligations.OpcodeMapHasTheSeventeenRows := by
  refine ⟨rfl, ?_⟩
  decide

/-- Settles O2: the decoder evaluated on each word. -/
theorem exampleWordsDecode : Obligations.ExampleWordsDecode := by
  unfold Obligations.ExampleWordsDecode
  decide

end Sys2Proof

/-! ### The multiplier (R100 to R102) -/

namespace Sys2Proof

theorem multiply_xor_right (a b b' : Byte) : multiply a (b ^^^ b') = multiply a b ^^^ multiply a b' :=
  multiplyFrom_xor_right 8 0 0 a b b'

@[simp] theorem multiply_zero_left (b : Byte) : multiply 0x00#8 b = 0x00#8 := by
  simpa using multiply_xor_left 0 0 b

@[simp] theorem multiply_zero_right (a : Byte) : multiply a 0x00#8 = 0x00#8 := by
  simpa using multiply_xor_right a 0 0

/-- 0x01 is the identity on the left: XOR keeps this, and it holds of each power of two. -/
@[simp] theorem multiply_one_left (b : Byte) : multiply 0x01#8 b = b :=
  byte_xor_induction (P := fun b => multiply 0x01#8 b = b) (multiply_zero_right 0x01)
    (fun x y hx hy => by rw [multiply_xor_right, hx, hy]) (by decide) b

end Sys2Proof

namespace Sys2Proof.Machine

/-- A word with a row's OPC and a 1 above the row's operand bits raises RESERVED_NONZERO (R80). -/
theorem reservedRaises_of_row {row : Row} (h : row ∈ opcodeMap) : reservedRaises row.opc row.format.operandBits := by
  intro w s ho hb
  rw [← operandBits_of_row h, ← ho] at hb
  exact executeWord_reserved (ho ▸ assigned_of_row h) hb s

/-- Settles O19: GFMUL's row gives the encoding and the error, and linearity of `multiply` the corner cases. -/
theorem gfmulCommand : Obligations.GfmulCommand := by
  refine ⟨fun a b => ?_, fun a b s => exec_gfmul s a b, reservedRaises_of_row (Instr.gfmul 0 0).row_mem,
    fun a => ⟨multiply_zero_right a, multiply_zero_left a, multiply_one_left a⟩, by decide, by decide, by decide, by decide⟩
  have opc : (Instr.gfmul a b).opc.toNat = 0x30 := rfl
  rw [encode_toNat, gfmulFields_toNat, opc]
  omega

/-! The carry-less product is linear in both of its operands. -/

theorem carrylessProduct_xor_left (a a' b n : Nat) :
    carrylessProduct (a ^^^ a') b n = carrylessProduct a b n ^^^ carrylessProduct a' b n := by
  induction n with
  | zero => exact (Nat.xor_self 0).symm
  | succ n ih =>
    simp only [carrylessProduct, ih, Nat.shiftLeft_xor_distrib]
    cases b.testBit n
    · simp
    · simp only [if_true]; ac_rfl

theorem carrylessProduct_xor_right (a b b' n : Nat) :
    carrylessProduct a (b ^^^ b') n = carrylessProduct a b n ^^^ carrylessProduct a b' n := by
  induction n with
  | zero => exact (Nat.xor_self 0).symm
  | succ n ih =>
    have term : (if b.testBit n ^^ b'.testBit n then a <<< n else 0) =
        (if b.testBit n then a <<< n else 0) ^^^ (if b'.testBit n then a <<< n else 0) := by
      cases b.testBit n <;> cases b'.testBit n <;> simp
    simp only [carrylessProduct, ih, Nat.testBit_xor, term]
    ac_rfl

@[simp] theorem carrylessProduct_zero_left (b n : Nat) : carrylessProduct 0 b n = 0 := by
  simpa using carrylessProduct_xor_left 0 0 b n

@[simp] theorem carrylessProduct_zero_right (a n : Nat) : carrylessProduct a 0 n = 0 := by
  simpa using carrylessProduct_xor_right a 0 0 n

/-- The polynomial `p` is the byte `r` plus a multiple of 0x11B by a quotient of degree below 7 (R100). -/
def ReducesTo (p : Nat) (r : Byte) : Prop := ∃ q < 2 ^ 7, p = r.toNat ^^^ carrylessProduct 0x11B q 7

theorem reducesTo_zero : ReducesTo 0 0x00#8 := ⟨0, by decide⟩

theorem ReducesTo.xor {p p' : Nat} {r r' : Byte} (h : ReducesTo p r) (h' : ReducesTo p' r') :
    ReducesTo (p ^^^ p') (r ^^^ r') := by
  obtain ⟨q, hq, rfl⟩ := h
  obtain ⟨q', hq', rfl⟩ := h'
  refine ⟨q ^^^ q', Nat.xor_lt_two_pow hq hq', ?_⟩
  rw [carrylessProduct_xor_right, BitVec.toNat_xor]
  ac_rfl

/-- The product of x^i and x^j, for all i and j below 8. -/
theorem reducesTo_multiply_two_pow (i j : Fin 8) :
    ReducesTo (carrylessProduct (BitVec.ofNat 8 (2 ^ i.val)).toNat (BitVec.ofNat 8 (2 ^ j.val)).toNat 8)
      (multiply (.ofNat 8 (2 ^ i.val)) (.ofNat 8 (2 ^ j.val))) := by
  unfold ReducesTo
  revert i j
  decide +kernel

/-- Both products are linear in each operand, so the reduction of every pair of bytes follows from that of the powers of two. -/
theorem reducesTo_multiply (a b : Byte) : ReducesTo (carrylessProduct a.toNat b.toNat 8) (multiply a b) := by
  induction a using byte_xor_induction with
  | zero => simpa using reducesTo_zero
  | xor a a' ih ih' =>
    rw [BitVec.toNat_xor, carrylessProduct_xor_left, multiply_xor_left]
    exact ih.xor ih'
  | bit i =>
    induction b using byte_xor_induction with
    | zero => simpa using reducesTo_zero
    | xor b b' ih ih' =>
      rw [BitVec.toNat_xor, carrylessProduct_xor_right, multiply_xor_right]
      exact ih.xor ih'
    | bit j => exact reducesTo_multiply_two_pow i j

/-- Settles O21: the two products are linear, and reduce alike on the powers of two. -/
theorem multiplyIsTheReducedCarrylessProduct : Obligations.MultiplyIsTheReducedCarrylessProduct := reducesTo_multiply

end Sys2Proof.Machine

/-! ### Round transforms as functions on a block (R113 to R119) -/

namespace Sys2Proof

/-! Byte lanes and rows. -/

@[simp] theorem byte_subBytes (s : Block) (i : Fin 16) : (subBytes s).byte i = sbox (s.byte i) := Block.byte_map_map sbox s i

@[simp] theorem byte_invSubBytes (s : Block) (i : Fin 16) : (invSubBytes s).byte i = invSbox (s.byte i) :=
  Block.byte_map_map invSbox s i

@[simp] theorem byte_addRoundKey (s k : Block) (i : Fin 16) : (addRoundKey s k).byte i = s.byte i ^^^ k.byte i :=
  Block.byte_xor s k i

@[simp] theorem addRoundKey_addRoundKey (s k : Block) : addRoundKey (addRoundKey s k) k = s := Block.xor_xor_cancel s k

/-- Row r moves left by r (R115). -/
@[simp] theorem byte_word_shiftRows (s : Block) (c r : Fin 4) : ((shiftRows s).word c).byte r = (s.word (c + r)).byte r := by
  fin_cases c <;> fin_cases r <;> rfl

/-- Row r moves right by r (R116). -/
@[simp] theorem byte_word_invShiftRows (s : Block) (c r : Fin 4) :
    ((invShiftRows s).word c).byte r = (s.word (c - r)).byte r := by
  fin_cases c <;> fin_cases r <;> rfl

/-- Two blocks are equal if they agree in every column and row. -/
theorem Block.ext_word_bytes {b d : Block} (h : ∀ c r, (b.word c).byte r = (d.word c).byte r) : b = d :=
  Block.ext_words fun c => Column.ext_bytes (h c)

@[simp] theorem invShiftRows_shiftRows (s : Block) : invShiftRows (shiftRows s) = s :=
  Block.ext_word_bytes fun c r => by simp

@[simp] theorem shiftRows_invShiftRows (s : Block) : shiftRows (invShiftRows s) = s :=
  Block.ext_word_bytes fun c r => by simp

/-- A row of four bytes that moves left by 3r moves right by r. -/
theorem shiftRows_three_times (s : Block) : shiftRows (shiftRows (shiftRows s)) = invShiftRows s := by
  have turn : ∀ c r : Fin 4, c + r + r + r = c - r := by decide
  exact Block.ext_word_bytes fun c r => by simp [turn]

theorem shiftRows_of_constant_rows {s : Block} (h : ∀ r c c' : Fin 4, (s.word c).byte r = (s.word c').byte r) :
    shiftRows s = s :=
  Block.ext_word_bytes fun c r => by rw [byte_word_shiftRows, h r (c + r) c]

/-- Settles O24: the lane and row lemmas, with byte `4c + r` of a block read as row r of column c (R10). -/
theorem transformByteFormulas : Obligations.TransformByteFormulas := by
  refine ⟨byte_subBytes, byte_invSubBytes, fun s r c => ?_, fun s => rfl, fun s r c => ?_, fun s => rfl,
    invShiftRows_shiftRows, byte_addRoundKey, addRoundKey_addRoundKey⟩
  · have column : (c.val + r.val) % 4 = (c + r).val := rfl
    simp only [column, Block.byte_eq_word_byte, byte_word_shiftRows]
  · have column : (c.val + 4 - r.val) % 4 = (c - r).val := by
      rw [Fin.val_sub]; congr 1; omega
    simp only [column, Block.byte_eq_word_byte, byte_word_invShiftRows]

/-! The S-box table and its inverse. -/

/-- IS undoes S on each of the 256 bytes (R111). -/
@[simp] theorem invSbox_sbox (x : Byte) : invSbox (sbox x) = x := by
  revert x
  decide +kernel

@[simp] theorem invSubBytes_subBytes (s : Block) : invSubBytes (subBytes s) = s :=
  Block.ext_bytes fun i => by simp

/-! Matrices over GF(2^8) times columns (R117, R118). -/

/-- Both products are linear in each of the three bytes, so associativity follows from that on the powers of two. -/
theorem multiply_assoc (a b c : Byte) : multiply (multiply a b) c = multiply a (multiply b c) := by
  induction a using byte_xor_induction with
  | zero => simp
  | xor a a' ih ih' => simp only [multiply_xor_left, ih, ih']
  | bit i =>
    induction b using byte_xor_induction with
    | zero => simp
    | xor b b' ih ih' => simp only [multiply_xor_left, multiply_xor_right, ih, ih']
    | bit j =>
      induction c using byte_xor_induction with
      | zero => simp
      | xor c c' ih ih' => simp only [multiply_xor_right, ih, ih']
      | bit k =>
        revert i j k
        decide +kernel

@[simp] theorem byte_matrixTimesColumn (m : Block) (c : Column) (r : Fin 4) :
    (matrixTimesColumn m c).byte r = rowTimesColumn (m.word r) c := by
  fin_cases r <;> rfl

theorem byte_word_mixColumns (s : Block) (c r : Fin 4) :
    ((mixColumns s).word c).byte r = rowTimesColumn (mixMatrix.word r) (s.word c) := by
  simp [mixColumns]

theorem byte_word_invMixColumns (s : Block) (c r : Fin 4) :
    ((invMixColumns s).word c).byte r = rowTimesColumn (invMixMatrix.word r) (s.word c) := by
  simp [invMixColumns]

/-- A row times a matrix. -/
def rowTimesMatrix (row : Column) (m : Block) : Column :=
  ⟨rowTimesColumn row ⟨m.c0.a0, m.c1.a0, m.c2.a0, m.c3.a0⟩, rowTimesColumn row ⟨m.c0.a1, m.c1.a1, m.c2.a1, m.c3.a1⟩,
   rowTimesColumn row ⟨m.c0.a2, m.c1.a2, m.c2.a2, m.c3.a2⟩, rowTimesColumn row ⟨m.c0.a3, m.c1.a3, m.c2.a3, m.c3.a3⟩⟩

/-- A row of one matrix applied after another matrix is a row of their product. -/
theorem rowTimesColumn_matrixTimesColumn (row : Column) (m : Block) (c : Column) :
    rowTimesColumn row (matrixTimesColumn m c) = rowTimesColumn (rowTimesMatrix row m) c := by
  simp only [rowTimesColumn, matrixTimesColumn, rowTimesMatrix, multiply_xor_left, multiply_xor_right, multiply_assoc]
  ac_rfl

/-- The identity matrix, a row a word. -/
def identityMatrix : Block := ⟨⟨1, 0, 0, 0⟩, ⟨0, 1, 0, 0⟩, ⟨0, 0, 1, 0⟩, ⟨0, 0, 0, 1⟩⟩

/-- IM times M is the identity matrix (R118). -/
theorem invMixMatrix_times_mixMatrix (r : Fin 4) :
    rowTimesMatrix (invMixMatrix.word r) mixMatrix = identityMatrix.word r := by
  revert r
  decide

theorem rowTimesColumn_identityMatrix (c : Column) (r : Fin 4) : rowTimesColumn (identityMatrix.word r) c = c.byte r := by
  fin_cases r <;> simp [identityMatrix, Block.word, Column.byte, rowTimesColumn]

@[simp] theorem invMixColumns_mixColumns (s : Block) : invMixColumns (mixColumns s) = s :=
  Block.ext_word_bytes fun c r => calc
    ((invMixColumns (mixColumns s)).word c).byte r
      = rowTimesColumn (invMixMatrix.word r) (matrixTimesColumn mixMatrix (s.word c)) := by
        rw [byte_word_invMixColumns, mixColumns, Block.word_map]
    _ = rowTimesColumn (identityMatrix.word r) (s.word c) := by
        rw [rowTimesColumn_matrixTimesColumn, invMixMatrix_times_mixMatrix]
    _ = (s.word c).byte r := rowTimesColumn_identityMatrix _ r

/-- On a column of four equal bytes, a row multiplies by the XOR of its entries. -/
theorem rowTimesColumn_of_equal_bytes (row : Column) {c : Column} (h : ∀ r, c.byte r = c.byte 0) :
    rowTimesColumn row c = multiply (row.a0 ^^^ row.a1 ^^^ row.a2 ^^^ row.a3) (c.byte 0) := by
  have h1 : c.a1 = c.byte 0 := h 1
  have h2 : c.a2 = c.byte 0 := h 2
  have h3 : c.a3 = c.byte 0 := h 3
  have h0 : c.a0 = c.byte 0 := rfl
  rw [rowTimesColumn, h0, h1, h2, h3]
  simp only [multiply_xor_left]

/-- A matrix whose rows XOR to 0x01 keeps a column of four equal bytes (R124, R125). -/
theorem matrixTimesColumn_of_equal_bytes {m : Block} {c : Column}
    (rows : ∀ r, (m.word r).a0 ^^^ (m.word r).a1 ^^^ (m.word r).a2 ^^^ (m.word r).a3 = 0x01)
    (h : ∀ r, c.byte r = c.byte 0) : matrixTimesColumn m c = c :=
  Column.ext_bytes fun r => by
    rw [byte_matrixTimesColumn, rowTimesColumn_of_equal_bytes _ h, rows, h r]
    exact multiply_one_left _

end Sys2Proof

/-! ### Round-transform commands (R120 to R126) -/

namespace Sys2Proof.Machine

/-- A command that applies `f` to STATE, run on a STATE for which `f` is known. -/
theorem exec_setStateReg_of_transform {i : Instr} {f : Block → Block}
    (hi : ∀ s : State, exec i s = .next (s.setStateReg (f s.stateReg))) {x y : Block} (h : f x = y) (s : State) :
    exec i (s.setStateReg x) = .next (s.setStateReg y) := by
  rw [hi, State.setStateReg_stateReg, h, State.setStateReg_setStateReg]

/-- Settles O27: SubBytes and InvSubBytes act byte by byte, and IS undoes S. -/
theorem byteSubstitutionCommands : Obligations.ByteSubstitutionCommands :=
  ⟨by decide, by decide,
    fun s => ⟨_, exec_subb s, byte_subBytes s.stateReg, rfl⟩,
    fun s => ⟨_, exec_isubb s, byte_invSubBytes s.stateReg, rfl⟩,
    reservedRaises_of_row Instr.subb.row_mem, reservedRaises_of_row Instr.isubb.row_mem,
    exec_setStateReg_of_transform exec_subb (by decide), exec_setStateReg_of_transform exec_isubb (by decide),
    fun s => by simp [execAll],
    exec_setStateReg_of_transform exec_subb (by decide), exec_setStateReg_of_transform exec_isubb (by decide)⟩

/-- Settles O28: row r moves by r columns modulo 4, from the old STATE; the corner cases are facts about these rotations. -/
theorem rowRotationCommands : Obligations.RowRotationCommands :=
  ⟨by decide, by decide,
    fun s => ⟨_, exec_shrow s, rfl, fun r c => byte_word_shiftRows s.stateReg c r⟩,
    fun s => ⟨_, exec_ishrow s, rfl, fun r c => byte_word_invShiftRows s.stateReg c r⟩,
    reservedRaises_of_row Instr.shrow.row_mem, reservedRaises_of_row Instr.ishrow.row_mem,
    fun s h => by rw [exec_shrow, shiftRows_of_constant_rows h, State.setStateReg_self],
    fun s => by simp [execAll, shiftRows_three_times],
    fun s => by simp [execAll],
    fun s => by simp [execAll, shiftRows_three_times],
    exec_setStateReg_of_transform exec_shrow (by decide), exec_setStateReg_of_transform exec_ishrow (by decide)⟩

/-- Settles O29: the column formulas; the rows of M and of IM XOR to 0x01, and IM times M is the identity. -/
theorem columnMixingCommands : Obligations.ColumnMixingCommands :=
  ⟨by decide, by decide,
    fun s => ⟨_, exec_mixcol s, rfl, fun r c => byte_word_mixColumns s.stateReg c r⟩,
    fun s => ⟨_, exec_imixcol s, rfl, fun r c => byte_word_invMixColumns s.stateReg c r⟩,
    reservedRaises_of_row Instr.mixcol.row_mem, reservedRaises_of_row Instr.imixcol.row_mem,
    fun s c h =>
      ⟨⟨_, exec_mixcol s, (Block.word_map _ _ c).trans (matrixTimesColumn_of_equal_bytes (by decide) h)⟩,
        ⟨_, exec_imixcol s, (Block.word_map _ _ c).trans (matrixTimesColumn_of_equal_bytes (by decide) h)⟩⟩,
    exec_setStateReg_of_transform exec_mixcol (by decide),
    fun s => by simp [execAll],
    exec_setStateReg_of_transform exec_mixcol (by decide), exec_setStateReg_of_transform exec_imixcol (by decide)⟩

/-- With current round keys, round key 0 after EnsureRoundKeys is the raw KEY (R23, R144, R145). -/
theorem ensureRoundKeys_rk_zero {s : State} (h : keysCurrent s) : (ensureRoundKeys s).rk[0] = s.key := by
  have current : (ensureRoundKeys s).rk = keyExpansion s.key := by
    rw [ensureRoundKeys_rk]
    split
    · exact h ‹_›
    · rfl
  rw [current]; rfl

/-- ARK 0 adds the raw KEY (R126). -/
theorem exec_ark_zero {s : State} (h : keysCurrent s) :
    ∃ t, exec (.ark 0) s = .next t ∧ t.stateReg = s.stateReg.xor s.key :=
  ⟨_, exec_ark_legal s (by decide), congrArg (Block.xor s.stateReg) (ensureRoundKeys_rk_zero h)⟩

/-- ARK 0 after a load of KEY, whatever the round keys were (R20, R126). -/
theorem exec_ark_zero_withKey (k b : Block) (s : State) :
    ∃ t, exec (.ark 0) ((withKey k s).setStateReg b) = .next t ∧ t.stateReg = b.xor k :=
  exec_ark_zero (keysCurrent_of_invalid rfl)

/-- The second ARK finds the round keys valid, so it adds the same round key again (R126). -/
theorem execAll_ark_ark {round : BitVec 4} (h : round.toNat ≤ 10) (s : State) :
    execAll [.ark round, .ark round] s = .next (ensureRoundKeys s) := by
  have kept : (ensureRoundKeys s).setStateReg s.stateReg = ensureRoundKeys s := by
    rw [← ensureRoundKeys_stateReg s, State.setStateReg_self]
  simp [execAll, exec_ark_legal _ h, ensureRoundKeys_setStateReg, kept]

/-- Settles O30: ROUND decides between the record of an error and AddRoundKey after EnsureRoundKeys. -/
theorem arkCommand : Obligations.ArkCommand := by
  refine ⟨fun round => ?_, fun round s h => exec_ark_illegal s h,
    fun round s h => ⟨_, exec_ark_legal s h, byte_addRoundKey s.stateReg _, rfl⟩,
    reservedRaises_of_row (Instr.ark 0).row_mem, fun s => exec_ark_zero,
    fun round s h => ⟨_, execAll_ark_ark h s, ensureRoundKeys_stateReg s⟩,
    fun s => (exec_ark_zero_withKey _ _ s).imp fun t ⟨run, state⟩ => ⟨run, state.trans (by decide)⟩⟩
  have opc : (Instr.ark round).opc.toNat = 0x16 := rfl
  have fields : (Instr.ark round).fields.toNat = round.toNat := zeroAppend_toNat round
  rw [encode_toNat, opc, fields]; norm_num

end Sys2Proof.Machine

/-! ### The key schedule (R143, R144)

`keyExpansion` builds each round key from the one before it; `scheduleWord_of_eq` turns R143's index i = 4r + c into round key r
and column c, so that the recurrence of the 44 words is read off one `nextRoundKey`. -/

namespace Sys2Proof

theorem keyExpansion_zero (k : Block) : (keyExpansion k)[0] = k := rfl

theorem keyExpansion_succ (k : Block) {r : Nat} (h : r < 10) :
    (keyExpansion k)[r + 1] = nextRoundKey (r + 1) (keyExpansion k)[r] := by
  interval_cases r <;> rfl

theorem word_zero_nextRoundKey (j : Nat) (prev : Block) :
    (nextRoundKey j prev).word 0 = (prev.word 0).xor (xorRcon j (subWord (rotWord (prev.word 3)))) := rfl

theorem word_succ_nextRoundKey (j : Nat) (prev : Block) {c : Nat} (h : c + 1 < 4) :
    (nextRoundKey j prev).word ⟨c + 1, h⟩ = (prev.word ⟨c + 1, h⟩).xor ((nextRoundKey j prev).word ⟨c, by omega⟩) := by
  have hc : c < 3 := by omega
  interval_cases c <;> rfl

/-- R144's grouping: word `4r + c` is column c of round key r. -/
theorem scheduleWord_of_eq (rk : RoundKeys) {i r c : Nat} (h : i < 44) (hc : c < 4) (hi : i = 4 * r + c) :
    scheduleWord rk ⟨i, h⟩ = (rk[r]'(by omega)).word ⟨c, hc⟩ := by
  have hdiv : i / 4 = r := by omega
  have hmod : i % 4 = c := by omega
  simp only [scheduleWord, hdiv, hmod]

theorem Block.word_eq_bytes (b : Block) (k : Fin 4) : b.word k =
    ⟨b.byte ⟨4 * k.val, by omega⟩, b.byte ⟨4 * k.val + 1, by omega⟩, b.byte ⟨4 * k.val + 2, by omega⟩,
      b.byte ⟨4 * k.val + 3, by omega⟩⟩ :=
  Column.ext (b.byte_eq_word_byte k 0 _).symm (b.byte_eq_word_byte k 1 _).symm (b.byte_eq_word_byte k 2 _).symm
    (b.byte_eq_word_byte k 3 _).symm

/-- R143 for the first word of a round key: `temp` is the last word of the round key before, rotated, substituted and XORed with
Rcon. -/
theorem scheduleWord_keyExpansion_first (k : Block) {i : Nat} (h : i < 44) (h4 : 4 ≤ i) (hmod : i % 4 = 0) :
    scheduleWord (keyExpansion k) ⟨i, h⟩ = (scheduleWord (keyExpansion k) ⟨i - 4, by omega⟩).xor
      (xorRcon (i / 4) (subWord (rotWord (scheduleWord (keyExpansion k) ⟨i - 1, by omega⟩)))) := by
  obtain ⟨r, rfl⟩ : ∃ r, i = 4 * (r + 1) := ⟨i / 4 - 1, by omega⟩
  rw [scheduleWord_of_eq _ (r := r + 1) (c := 0) _ (by omega) (by omega),
    scheduleWord_of_eq _ (r := r) (c := 0) _ (by omega) (by omega),
    scheduleWord_of_eq _ (r := r) (c := 3) _ (by omega) (by omega), keyExpansion_succ k (by omega),
    Nat.mul_div_cancel_left _ (by decide)]
  exact word_zero_nextRoundKey _ _

/-- R143 for the other words of a round key: `temp` is the word before, in the same round key. -/
theorem scheduleWord_keyExpansion_later (k : Block) {i : Nat} (h : i < 44) (h4 : 4 ≤ i) (hmod : i % 4 ≠ 0) :
    scheduleWord (keyExpansion k) ⟨i, h⟩ = (scheduleWord (keyExpansion k) ⟨i - 4, by omega⟩).xor
      (scheduleWord (keyExpansion k) ⟨i - 1, by omega⟩) := by
  obtain ⟨r, c, hc, rfl⟩ : ∃ r c, c + 1 < 4 ∧ i = 4 * (r + 1) + (c + 1) := ⟨i / 4 - 1, i % 4 - 1, by omega⟩
  rw [scheduleWord_of_eq _ (r := r + 1) (c := c + 1) _ hc rfl,
    scheduleWord_of_eq _ (r := r) (c := c + 1) _ hc (by omega),
    scheduleWord_of_eq _ (r := r + 1) (c := c) _ (by omega) (by omega), keyExpansion_succ k (by omega)]
  exact word_succ_nextRoundKey _ _ hc

end Sys2Proof

namespace Sys2Proof.Machine

/-- Settles O32: R143's two cases for `temp`, R144's grouping, and R51's rows for RK. -/
theorem keyExpansionRecurrence : Obligations.KeyExpansionRecurrence := by
  refine ⟨fun K => ⟨fun i => ?_, fun i h h4 => ?_, fun r c j => ?_, keyExpansion_zero K⟩, fun s i => ?_⟩
  · rw [← K.word_eq_bytes i]
    exact scheduleWord_of_eq _ (r := 0) _ i.isLt (by omega)
  · dsimp only
    split
    · exact scheduleWord_keyExpansion_first K h h4 ‹_›
    · exact scheduleWord_keyExpansion_later K h h4 ‹_›
  · rw [scheduleWord_of_eq _ _ c.isLt rfl]
    exact Block.byte_eq_word_byte _ c j _
  · rw [windowReg_of_standsAt (r := .rkw i) (by omega) rfl]
    rfl

/-! ### EnsureRoundKeys and KEYEXP (R145, R146) -/

/-- With current round keys, EnsureRoundKeys leaves those of KEY (R23, R145). -/
theorem ensureRoundKeys_rk_of_current {s : State} (h : keysCurrent s) : (ensureRoundKeys s).rk = keyExpansion s.key := by
  rw [ensureRoundKeys_rk, ite_eq_right_iff]
  exact h

/-- Settles O33: a legal command that uses round keys ensures them first, and one with an illegal operand only records an error. -/
theorem ensureRoundKeysRule : Obligations.EnsureRoundKeysRule := by
  refine ⟨ensureRoundKeys_of_invalid, ensureRoundKeys_of_valid, fun s => ensureRoundKeys_rk_of_current,
    fun i s hw hu => ⟨(exec_ensureRoundKeys s hw hu).symm, ?_⟩,
    fun i s hw => ⟨_, exec_of_not_wellFormed s hw, recordError_rkv s _, recordError_rk s _⟩⟩
  obtain ⟨t, ht⟩ := exec_answers_next s i
  obtain ⟨hrk, hrkv⟩ := (exec_legal_cases hw ht).roundKeys_of_uses hu
  exact ⟨t, ht, hrkv, hrk⟩

theorem execAll_singleton (i : Instr) (s : State) : execAll [i] s = exec i s := by
  obtain ⟨t, ht⟩ := exec_answers_next s i
  simp only [execAll, ht]

/-- With valid and current round keys, expanding KEY again gives the same state (R23, R146). -/
theorem exec_keyexp_of_current {s : State} (h : keysCurrent s) (hv : s.rkv = true) : exec .keyexp s = .next s := by
  rw [exec_keyexp, ← h hv, State.setRk_self, ← hv, State.setRkv_self]

/-- Before KEY is expanded, KEYEXP does what EnsureRoundKeys would do, so that it changes nothing of the result of a command that
uses round keys (R146). -/
theorem execAll_keyexp_of_uses {i : Instr} {s : State} (hw : i.wellFormed = true) (hu : usesRoundKeys i = true)
    (hv : s.rkv = false) : execAll [.keyexp, i] s = exec i s := calc
  execAll [.keyexp, i] s = exec i (ensureRoundKeys s) := by
    rw [ensureRoundKeys_of_invalid s hv]; exact execAll_singleton i _
  _ = exec i s := exec_ensureRoundKeys s hw hu

/-- KEYEXP on a state that holds the key `k` puts k's schedule in RK (R146). -/
theorem exec_keyexp_setKey (k : Block) (s : State) :
    ∃ t, exec .keyexp (s.setKey k) = .next t ∧ t.rk = keyExpansion k := ⟨_, exec_keyexp _, rfl⟩

/-- Settles O34: KEYEXP is the expansion of KEY into RK, whatever RKV was; the example keys' expansions are computed. -/
theorem keyexpCommand : Obligations.KeyexpCommand :=
  ⟨by decide, exec_keyexp, fun _ => exec_keyexp_of_current, reservedRaises_of_row Instr.keyexp.row_mem,
    fun s => (exec_keyexp_setKey _ s).imp fun _ ⟨run, rk⟩ => ⟨run, by rw [rk]; decide⟩,
    fun s => (exec_keyexp_setKey _ s).imp fun _ ⟨run, rk⟩ => ⟨run, by rw [rk]; decide⟩,
    fun _ _ => execAll_keyexp_of_uses,
    fun s => (exec_keyexp_setKey _ s).imp fun _ ⟨run, rk⟩ => ⟨run, by rw [regWord, rk]; decide⟩⟩

end Sys2Proof.Machine

/-! ### The block cipher (R150 to R152)

Decryption round i begins by undoing the SubBytes and ShiftRows of encryption round i + 1, not of round i. So the two runs are
compared after SubBytes and ShiftRows: decryption round i takes that form of the state after encryption round i to the same form of
the state before it. -/

namespace Sys2Proof

/-- Folding `g` backwards undoes folding `f` forwards, seen through `h`, if one step of `g` undoes one step of `f`. -/
theorem foldl_reverse_foldl {α β γ : Type} {f : β → α → β} {g : γ → α → γ} {h : β → γ}
    (undo : ∀ b a, g (h (f b a)) a = h b) (l : List α) (b : β) : l.reverse.foldl g (h (l.foldl f b)) = h b := by
  induction l generalizing b with
  | nil => rfl
  | cons a l ih => calc
    (a :: l).reverse.foldl g (h ((a :: l).foldl f b)) = g (l.reverse.foldl g (h (l.foldl f (f b a)))) a := by simp
    _ = h b := by rw [ih, undo]

/-- Decryption round i undoes the MixColumns and AddRoundKey of encryption round i (R150, R151). -/
theorem decRound_encRound (rk : RoundKeys) (s : Block) (i : Fin 11) :
    decRound rk (shiftRows (subBytes (encRound rk s i))) i = shiftRows (subBytes s) := by
  simp only [decRound, encRound, invShiftRows_shiftRows, invSubBytes_subBytes, addRoundKey_addRoundKey,
    invMixColumns_mixColumns]

theorem invCipher_cipher (p : Block) (rk : RoundKeys) : invCipher (cipher p rk) rk = p := by
  have middle := foldl_reverse_foldl (h := fun s => shiftRows (subBytes s)) (decRound_encRound rk) middleRounds
    (addRoundKey p rk[0])
  have down : middleRoundsDown = middleRounds.reverse := rfl
  simp only [invCipher, cipher, down, addRoundKey_addRoundKey, middle, invShiftRows_shiftRows, invSubBytes_subBytes]

/-- A block is its 16 bytes, each one of 256. -/
theorem Block.finite : Finite Block :=
  .of_injective (fun (b : Block) (i : Fin 16) => (b.byte i).toFin) fun _ _ h =>
    Block.ext_bytes fun i => BitVec.eq_of_toFin_eq (congrFun h i)

/-- Cipher under fixed round keys is injective on a finite set, hence onto, so its left inverse is its right inverse. -/
theorem cipher_invCipher (c : Block) (rk : RoundKeys) : cipher (invCipher c rk) rk = c :=
  have := Block.finite
  have left : Function.LeftInverse (invCipher · rk) (cipher · rk) := (invCipher_cipher · rk)
  left.rightInverse_of_surjective (Finite.surjective_of_injective left.injective) c

end Sys2Proof

namespace Sys2Proof.Machine

/-- Settles O35: the two are inverse under every list of round keys, an expanded one or not. -/
theorem cipherMutualInverse : Obligations.CipherMutualInverse :=
  fun K P => ⟨invCipher_cipher P (keyExpansion K), cipher_invCipher P (keyExpansion K)⟩

/-! ### ENCBLK and DECBLK (R153, R154) -/

/-- A sequence whose first command ensures the round keys may start from the state in which they are ensured (R145). -/
theorem execAll_ensureRoundKeys {i : Instr} (s : State) (hw : i.wellFormed = true) (hu : usesRoundKeys i = true)
    (l : List Instr) : execAll (i :: l) (ensureRoundKeys s) = execAll (i :: l) s := by
  rw [execAll, execAll, exec_ensureRoundKeys s hw hu]

/-- Once the round keys are valid, ARK only adds round key ROUND to STATE (R126, R145). -/
theorem exec_ark_of_valid {s : State} (hv : s.rkv = true) {round : BitVec 4} (h : round.toNat ≤ 10) :
    exec (.ark round) s = .next (s.setStateReg (addRoundKey s.stateReg (s.rk[round.toNat]'(by omega)))) := by
  simp [exec_ark_legal s h, ensureRoundKeys_of_valid s hv]

/-- If the commands of one round apply that round to STATE, then those of a list of rounds apply them in order. -/
theorem execAll_flatMap_rounds {commands : Fin 11 → List Instr} {round : RoundKeys → Block → Fin 11 → Block}
    (one : ∀ (i : Fin 11) (s : State) (l : List Instr), s.rkv = true →
      execAll (commands i ++ l) s = execAll l (s.setStateReg (round s.rk s.stateReg i)))
    (rounds : List (Fin 11)) (l : List Instr) {s : State} (hv : s.rkv = true) :
    execAll (rounds.flatMap commands ++ l) s = execAll l (s.setStateReg (rounds.foldl (round s.rk) s.stateReg)) := by
  induction rounds generalizing s with
  | nil => rfl
  | cons i rounds ih =>
    rw [List.flatMap_cons, List.append_assoc, one i s _ hv, ih (by exact hv)]
    rfl

theorem execAll_encround (i : Fin 11) (s : State) (l : List Instr) (hv : s.rkv = true) :
    execAll (encroundCommands i.val ++ l) s = execAll l (s.setStateReg (encRound s.rk s.stateReg i)) := by
  have field : i.val % 16 = i.val := by omega
  have legal : i.val ≤ 10 := by omega
  simp [encroundCommands, execAll, exec_ark_of_valid, field, legal, hv, encRound]

theorem execAll_decround (i : Fin 11) (s : State) (l : List Instr) (hv : s.rkv = true) :
    execAll (decroundCommands i.val ++ l) s = execAll l (s.setStateReg (decRound s.rk s.stateReg i)) := by
  have field : i.val % 16 = i.val := by omega
  have legal : i.val ≤ 10 := by omega
  simp [decroundCommands, execAll, exec_ark_of_valid, field, legal, hv, decRound]

theorem encryptByRounds_eq : encryptByRounds =
    .ark 0 :: (middleRounds.flatMap (fun i => encroundCommands i.val) ++ [.subb, .shrow, .ark 10]) := rfl

theorem decryptByRounds_eq : decryptByRounds =
    .ark 10 :: (middleRoundsDown.flatMap (fun i => decroundCommands i.val) ++ [.ishrow, .isubb, .ark 0]) := rfl

/-- With valid round keys, the round commands of an encryption apply the steps of Cipher to STATE (R150, R153). -/
theorem execAll_encryptByRounds_of_valid {s : State} (hv : s.rkv = true) :
    execAll encryptByRounds s = .next (s.setStateReg (cipher s.stateReg s.rk)) := by
  simp [encryptByRounds_eq, cipher, execAll, execAll_flatMap_rounds execAll_encround, exec_ark_of_valid, hv]

/-- With valid round keys, the round commands of a decryption apply the steps of InvCipher to STATE (R151, R154). -/
theorem execAll_decryptByRounds_of_valid {s : State} (hv : s.rkv = true) :
    execAll decryptByRounds s = .next (s.setStateReg (invCipher s.stateReg s.rk)) := by
  simp [decryptByRounds_eq, invCipher, execAll, execAll_flatMap_rounds execAll_decround, exec_ark_of_valid, hv]

/-- The first command, ARK 0, ensures the round keys, as ENCBLK does. -/
theorem execAll_encryptByRounds (s : State) : execAll encryptByRounds s = exec .encblk s := calc
  execAll encryptByRounds s = execAll encryptByRounds (ensureRoundKeys s) :=
    (execAll_ensureRoundKeys s (by decide) rfl _).symm
  _ = exec .encblk s := by
    rw [execAll_encryptByRounds_of_valid (ensureRoundKeys_rkv s), exec_encblk, ensureRoundKeys_stateReg]

/-- The first command, ARK 10, ensures the round keys, as DECBLK does. -/
theorem execAll_decryptByRounds (s : State) : execAll decryptByRounds s = exec .decblk s := calc
  execAll decryptByRounds s = execAll decryptByRounds (ensureRoundKeys s) :=
    (execAll_ensureRoundKeys s (by decide) rfl _).symm
  _ = exec .decblk s := by
    rw [execAll_decryptByRounds_of_valid (ensureRoundKeys_rkv s), exec_decblk, ensureRoundKeys_stateReg]

/-- ENCBLK where RKV = 0, as after reset or a load of KEY, enciphers STATE under KEY (R145, R153). -/
theorem exec_encblk_of_invalid {s : State} {c : Block} (hv : s.rkv = false)
    (hc : cipher s.stateReg (keyExpansion s.key) = c) : ∃ t, exec .encblk s = .next t ∧ t.stateReg = c :=
  ⟨_, exec_encblk s, by simpa [ensureRoundKeys_of_invalid s hv] using hc⟩

/-- DECBLK where RKV = 0, as after reset or a load of KEY, deciphers STATE under KEY (R145, R154). -/
theorem exec_decblk_of_invalid {s : State} {p : Block} (hv : s.rkv = false)
    (hp : invCipher s.stateReg (keyExpansion s.key) = p) : ∃ t, exec .decblk s = .next t ∧ t.stateReg = p :=
  ⟨_, exec_decblk s, by simpa [ensureRoundKeys_of_invalid s hv] using hp⟩

/-- DECBLK finds the round keys that ENCBLK ensured, so it restores STATE (R154). -/
theorem execAll_encblk_decblk (s : State) : execAll [.encblk, .decblk] s = .next (ensureRoundKeys s) := by
  have kept : (ensureRoundKeys s).setStateReg s.stateReg = ensureRoundKeys s :=
    (ensureRoundKeys_setStateReg s s.stateReg).symm
  simp [execAll, ensureRoundKeys_setStateReg, invCipher_cipher, kept]

/-- The zero block under the zero key (R153). -/
theorem cipher_zero_block : cipher (.ofHex 0) (keyExpansion (.ofHex 0)) = .ofHex 0x66e94bd4ef8a2c3b884cfa59ca342b2e := by
  decide +kernel

/-- The block and key of the examples of R153 and R154. -/
theorem cipher_example_block : cipher (.ofHex 0x00112233445566778899aabbccddeeff)
    (keyExpansion (.ofHex 0x000102030405060708090a0b0c0d0e0f)) = .ofHex 0x69c4e0d86a7b0430d8cdb78070b4c55a := by
  decide +kernel

theorem invCipher_example_block : invCipher (.ofHex 0x69c4e0d86a7b0430d8cdb78070b4c55a)
    (keyExpansion (.ofHex 0x000102030405060708090a0b0c0d0e0f)) = .ofHex 0x00112233445566778899aabbccddeeff := by
  rw [← cipher_example_block, invCipher_cipher]

/-- Settles O36: ENCBLK is Cipher on STATE after EnsureRoundKeys; the examples' ciphertexts are computed. -/
theorem encblkCommand : Obligations.EncblkCommand :=
  ⟨by decide, fun s => ⟨_, exec_encblk s, rfl, rfl, ensureRoundKeys_rkv s⟩, reservedRaises_of_row Instr.encblk.row_mem,
    fun _ => exec_encblk_of_invalid rfl cipher_zero_block, exec_encblk_of_invalid rfl cipher_zero_block,
    execAll_encryptByRounds, fun _ => exec_encblk_of_invalid rfl cipher_example_block⟩

/-- Settles O37: DECBLK is InvCipher on STATE after EnsureRoundKeys; InvCipher undoes Cipher, in the example too. -/
theorem decblkCommand : Obligations.DecblkCommand :=
  ⟨by decide, fun s => ⟨_, exec_decblk s, rfl, rfl, ensureRoundKeys_rkv s⟩, reservedRaises_of_row Instr.decblk.row_mem,
    fun s _ => ⟨_, execAll_encblk_decblk s, ensureRoundKeys_stateReg s⟩,
    fun s _ => ⟨_, (exec_decblk_of_invalid rfl rfl).imp fun _ decblk => ⟨exec_encblk s, decblk⟩⟩,
    execAll_decryptByRounds, fun _ => exec_decblk_of_invalid rfl invCipher_example_block⟩

end Sys2Proof.Machine

/-! ### Mode commands (R160)

A mode command with a legal NBYTES is EnsureRoundKeys followed by one of the model's block effects; `modeEffect` names the effect,
and `exec_mode_legal` ties it to `exec`. -/

namespace Sys2Proof.Machine

/-- What a mode command with a legal NBYTES does once the round keys are ensured (R161 to R164, R167); no other command is one. -/
def modeEffect : Instr → State → State
  | .ecbenc _ => ecbEncrypt
  | .ecbdec _ => ecbDecrypt
  | .cbcenc _ => cbcEncrypt
  | .cbcdec _ => cbcDecrypt
  | .ctrxor n => ctrXor n.toNat
  | _ => id

section
variable {n : BitVec 5} {i : Instr}

theorem usesRoundKeys_of_mode (hi : i ∈ modeCommands n) : usesRoundKeys i = true := by
  fin_cases hi <;> rfl

theorem wellFormed_fullBlock_iff (hi : i ∈ fullBlockCommands n) : i.wellFormed = true ↔ n = 16 := by
  fin_cases hi <;> exact beq_iff_eq

theorem wellFormed_ctrxor_iff : (Instr.ctrxor n).wellFormed = true ↔ 1 ≤ n.toNat ∧ n.toNat ≤ 16 := by
  simp [Instr.wellFormed]

theorem exec_mode_legal (hi : i ∈ modeCommands n) (hw : i.wellFormed = true) (s : State) :
    exec i s = .next (modeEffect i (ensureRoundKeys s)) := by
  rcases List.mem_append.1 hi with hf | hc
  · have hn : n = 16 := (wellFormed_fullBlock_iff hf).1 hw
    fin_cases hf <;> exact congrArg _ (fullBlockMode_of_full s hn _)
  · obtain rfl := List.mem_singleton.1 hc
    exact congrArg _ (checked_of_legal s ((ctrLength_iff n).2 (wellFormed_ctrxor_iff.1 hw)) _ _)

theorem exec_mode_illegal (hi : i ∈ modeCommands n) (hw : i.wellFormed = false) (s : State) :
    exec i s = .next (recordError .length s) := by
  fin_cases hi <;> exact exec_of_not_wellFormed s hw

theorem modeEffect_setStateReg (i : Instr) (s : State) (b : Block) :
    modeEffect i (s.setStateReg b) = (modeEffect i s).setStateReg b := by
  cases i <;> rfl

theorem modeEffect_setDout (hi : i ∈ modeCommands n) (s : State) (d : Block) :
    modeEffect i (s.setDout d) = modeEffect i s := by
  fin_cases hi <;> rfl

/-- A mode command neither reads nor writes STATE, whether NBYTES is legal or not. -/
theorem exec_mode_setStateReg (hi : i ∈ modeCommands n) (s : State) (b : Block) :
    exec i (s.setStateReg b) = onNext (exec i s) (fun t => t.setStateReg b) := by
  cases hw : i.wellFormed with
  | true =>
    rw [exec_mode_legal hi hw, exec_mode_legal hi hw, ensureRoundKeys_setStateReg, modeEffect_setStateReg, onNext_next]
  | false => rw [exec_mode_illegal hi hw, exec_mode_illegal hi hw, recordError_setStateReg, onNext_next]

theorem exec_mode_setDout (hi : i ∈ modeCommands n) (hw : i.wellFormed = true) (s : State) (d : Block) :
    exec i (s.setDout d) = exec i s := by
  rw [exec_mode_legal hi hw, exec_mode_legal hi hw, ensureRoundKeys_setDout, modeEffect_setDout hi]

/-- A mode command with a legal NBYTES ensures the round keys first, and leaves them valid and DIN as it was. -/
theorem exec_mode_ensures (hi : i ∈ modeCommands n) (s : State) (hw : i.wellFormed = true) :
    ∃ t, exec i s = .next t ∧ exec i (ensureRoundKeys s) = .next t ∧ t.rkv = true ∧ t.din = s.din := by
  have hu := usesRoundKeys_of_mode hi
  obtain ⟨t, ht⟩ := exec_answers_next s i
  exact ⟨t, ht, by rw [exec_ensureRoundKeys s hw hu, ht], ((exec_legal_cases hw ht).roundKeys_of_uses hu).2,
    (exec_frame ht).din⟩

end

/-- Settles O38: a legal mode command is its effect after EnsureRoundKeys, and an illegal one only records LENGTH. -/
theorem modeCommandsCommon : Obligations.ModeCommandsCommon :=
  ⟨fun _ _ => exec_mode_ensures, fun _ _ => exec_mode_setStateReg, fun _ _ hi s d hw => exec_mode_setDout hi hw s d,
    fun _ _ => wellFormed_fullBlock_iff, fun _ => wellFormed_ctrxor_iff, fun _ _ hi s hw => exec_mode_illegal hi hw s⟩

/-! ### ECBENC and ECBDEC (R161, R162) -/

/-- ECBENC where RKV = 0, as after a load of KEY, enciphers DIN under KEY (R145, R161). -/
theorem exec_ecbenc_of_invalid {s : State} {c : Block} (hv : s.rkv = false) (hc : cipher s.din (keyExpansion s.key) = c) :
    ∃ t, exec (.ecbenc 16) s = .next t ∧ t.dout = c :=
  ⟨_, exec_ecbenc_full s, by simpa [ensureRoundKeys_of_invalid s hv] using hc⟩

/-- ECBDEC where RKV = 0, as after a load of KEY, deciphers DIN under KEY (R145, R162). -/
theorem exec_ecbdec_of_invalid {s : State} {p : Block} (hv : s.rkv = false)
    (hp : invCipher s.din (keyExpansion s.key) = p) : ∃ t, exec (.ecbdec 16) s = .next t ∧ t.dout = p :=
  ⟨_, exec_ecbdec_full s, by simpa [ensureRoundKeys_of_invalid s hv] using hp⟩

theorem exec_ecbenc_setChain (s : State) (b : Block) :
    exec (.ecbenc 16) (s.setChain b) = onNext (exec (.ecbenc 16) s) (fun t => t.setChain b) := by
  rw [exec_ecbenc_full, exec_ecbenc_full, ensureRoundKeys_setChain]; rfl

/-- ECBENC in two states with current round keys, one KEY and one DIN (R23, R161). -/
theorem exec_ecbenc_dout_eq {s s' : State} (hs : keysCurrent s) (hs' : keysCurrent s') (key : s.key = s'.key)
    (din : s.din = s'.din) :
    ∃ t t', exec (.ecbenc 16) s = .next t ∧ exec (.ecbenc 16) s' = .next t' ∧ t.dout = t'.dout :=
  ⟨_, _, exec_ecbenc_full s, exec_ecbenc_full s', by
    simp [ensureRoundKeys_rk_of_current hs, ensureRoundKeys_rk_of_current hs', key, din]⟩

/-- ECBDEC finds the round keys that ECBENC ensured, so with DOUT copied back to DIN it restores the block (R162). -/
theorem exec_ecbdec_of_ecbenc (s : State) : ∃ t u, exec (.ecbenc 16) s = .next t ∧
    exec (.ecbdec 16) (t.setDin t.dout) = .next u ∧ u.dout = s.din :=
  ⟨_, _, exec_ecbenc_full s, exec_ecbdec_full _, by
    simp [ensureRoundKeys_setDin, ensureRoundKeys_setDout, invCipher_cipher]⟩

/-- Settles O39: Cipher or InvCipher of DIN after EnsureRoundKeys; the two are inverse, in the examples too. -/
theorem ecbCommands : Obligations.EcbCommands :=
  ⟨by decide, by decide, fun s => ⟨_, exec_ecbenc_full s, rfl, rfl, ensureRoundKeys_rkv s⟩,
    fun s => ⟨_, exec_ecbdec_full s, rfl, rfl, ensureRoundKeys_rkv s⟩,
    reservedRaises_of_row (Instr.ecbenc 16).row_mem, reservedRaises_of_row (Instr.ecbdec 16).row_mem,
    fun _ s hn => ⟨exec_ecbenc_illegal s hn, exec_ecbdec_illegal s hn⟩, exec_ecbenc_setChain,
    fun _ _ => exec_ecbenc_dout_eq, fun s _ => exec_ecbdec_of_ecbenc s,
    fun _ => exec_ecbenc_of_invalid rfl cipher_example_block, fun _ => exec_ecbdec_of_invalid rfl invCipher_example_block⟩

/-! ### CBCENC and CBCDEC (R163, R164) -/

/-- CBCENC where RKV = 0, as after a load of KEY (R145, R163). -/
theorem exec_cbcenc_of_invalid {s : State} {c : Block} (hv : s.rkv = false)
    (hc : cipher (s.din.xor s.chain) (keyExpansion s.key) = c) :
    ∃ t, exec (.cbcenc 16) s = .next t ∧ t.dout = c ∧ t.chain = c :=
  ⟨_, exec_cbcenc_full s, by simpa [ensureRoundKeys_of_invalid s hv] using hc⟩

/-- CBCDEC where RKV = 0, as after a load of KEY (R145, R164). -/
theorem exec_cbcdec_of_invalid {s : State} {p : Block} (hv : s.rkv = false)
    (hp : (invCipher s.din (keyExpansion s.key)).xor s.chain = p) :
    ∃ t, exec (.cbcdec 16) s = .next t ∧ t.dout = p ∧ t.chain = s.din :=
  ⟨_, exec_cbcdec_full s, by simpa [ensureRoundKeys_of_invalid s hv] using hp⟩

/-- From a zero CHAIN, CBCENC enciphers DIN itself, as ECBENC does (R163). -/
theorem exec_cbcenc_of_zero_chain {s : State} (h : s.chain = .ofHex 0) :
    ∃ t u, exec (.cbcenc 16) s = .next t ∧ exec (.ecbenc 16) s = .next u ∧ t.dout = u.dout := by
  have zero : s.chain = .zero := h.trans (by decide)
  exact ⟨_, _, exec_cbcenc_full s, exec_ecbenc_full s, by simp [zero]⟩

/-- Deciphering the ciphertext of `p` under the chaining block `c` and XORing with `c` gives `p` back (R163, R164). -/
theorem invCipher_cipher_xor (p c : Block) (rk : RoundKeys) : (invCipher (cipher (p.xor c) rk) rk).xor c = p := by
  rw [invCipher_cipher, Block.xor_xor_cancel]

/-- A block enciphered and deciphered with one KEY and one CHAIN (R164). -/
theorem exec_cbcdec_of_cbcenc (s : State) (k p c : Block) : ∃ t u,
    exec (.cbcenc 16) (((withKey k s).setDin p).setChain c) = .next t ∧
    exec (.cbcdec 16) (((withKey k s).setDin t.dout).setChain c) = .next u ∧ u.dout = p := by
  obtain ⟨t, enc, ht, -⟩ := exec_cbcenc_of_invalid (s := ((withKey k s).setDin p).setChain c) rfl rfl
  obtain ⟨u, dec, hu, -⟩ := exec_cbcdec_of_invalid (s := ((withKey k s).setDin t.dout).setChain c) rfl rfl
  refine ⟨t, u, enc, dec, ?_⟩
  rw [hu, ht]
  exact invCipher_cipher_xor p c (keyExpansion k)

/-- The block of the examples of R163 and R164. -/
theorem cipher_cbc_example_block : cipher
    ((Block.ofHex 0x00112233445566778899aabbccddeeff).xor (.ofHex 0x0f0e0d0c0b0a09080706050403020100))
    (keyExpansion (.ofHex 0x000102030405060708090a0b0c0d0e0f)) = .ofHex 0x16628846f7334843bc7321cc79661680 := by
  decide +kernel

theorem invCipher_cbc_example_block : (invCipher (.ofHex 0x16628846f7334843bc7321cc79661680)
    (keyExpansion (.ofHex 0x000102030405060708090a0b0c0d0e0f))).xor (.ofHex 0x0f0e0d0c0b0a09080706050403020100) =
    .ofHex 0x00112233445566778899aabbccddeeff := by
  rw [← cipher_cbc_example_block, invCipher_cipher_xor]

/-- Settles O40: the two rules' DOUT and CHAIN, both from the old CHAIN, after EnsureRoundKeys. -/
theorem cbcCommands : Obligations.CbcCommands :=
  ⟨by decide, by decide, fun s => ⟨_, exec_cbcenc_full s, rfl, rfl, rfl⟩, fun s => ⟨_, exec_cbcdec_full s, rfl, rfl, rfl⟩,
    reservedRaises_of_row (Instr.cbcenc 16).row_mem, reservedRaises_of_row (Instr.cbcdec 16).row_mem,
    fun _ s hn => ⟨exec_cbcenc_illegal s hn, exec_cbcdec_illegal s hn⟩, fun _ => exec_cbcenc_of_zero_chain,
    exec_cbcdec_of_cbcenc, fun _ => exec_cbcenc_of_invalid rfl cipher_cbc_example_block,
    fun _ => exec_cbcdec_of_invalid rfl invCipher_cbc_example_block⟩

end Sys2Proof.Machine

/-! ### The counter block (R165, R166) -/

namespace Sys2Proof

theorem byte_ctrBlock_nonce (o : CtrOrder) (n : Nonce) (v : BitVec 64) (j : Fin 8) :
    (ctrBlock o n v).byte ⟨j.val, by omega⟩ = n.byte j := by
  fin_cases j <;> rfl

theorem byte_ctrBlock_counter (o : CtrOrder) (n : Nonce) (v : BitVec 64) (j : Fin 8) :
    (ctrBlock o n v).byte ⟨8 + j.val, by omega⟩ = serCtr o v j := by
  fin_cases j <;> rfl

theorem serCtr_be_toNat (v : BitVec 64) (j : Fin 8) : (serCtr .be v j).toNat = v.toNat / 2 ^ (56 - 8 * j.val) % 256 := by
  rw [serCtr, BitVec.extractLsb'_toNat, Nat.shiftRight_eq_div_pow]

theorem serCtr_le_toNat (v : BitVec 64) (j : Fin 8) : (serCtr .le v j).toNat = v.toNat / 2 ^ (8 * j.val) % 256 := by
  rw [serCtr, BitVec.extractLsb'_toNat, Nat.shiftRight_eq_div_pow]

/-- The counter block depends on the order only through the counter's bytes. -/
theorem ctrBlock_congr {o o' : CtrOrder} {v v' : BitVec 64} (n : Nonce) (h : ∀ j, serCtr o v j = serCtr o' v' j) :
    ctrBlock o n v = ctrBlock o' n v' := by
  simp only [ctrBlock, h]

/-- Settles O41: the bytes of the block are the nonce's and the counter's, which read alike in both orders at 0 and 2^64 - 1. -/
theorem ctrBlockLayout : Obligations.CtrBlockLayout :=
  ⟨byte_ctrBlock_nonce, fun n v j => by rw [byte_ctrBlock_counter, serCtr_be_toNat],
    fun n v j => by rw [byte_ctrBlock_counter, serCtr_le_toNat],
    fun n => ⟨ctrBlock_congr n (by decide), ctrBlock_congr n (by decide)⟩, rfl⟩

end Sys2Proof

/-! ### CTRXOR (R167, R168) -/

namespace Sys2Proof

@[simp] theorem byte_ctrOutput (n : Nat) (din ks : Block) (j : Fin 16) :
    (ctrOutput n din ks).byte j = if j.val < n then din.byte j ^^^ ks.byte j else 0x00 :=
  Block.byte_ofBytes _ j

/-- DIN bytes at index `n` or above are not read (R167). -/
theorem ctrOutput_congr {n : Nat} {d d' : Block} (h : ∀ j : Fin 16, j.val < n → d.byte j = d'.byte j) (ks : Block) :
    ctrOutput n d ks = ctrOutput n d' ks :=
  Block.ext_bytes fun j => by
    rw [byte_ctrOutput, byte_ctrOutput]
    exact ite_congr rfl (fun hj => by rw [h j hj]) fun _ => rfl

/-- The same keystream twice gives the first `n` bytes back (R167). -/
theorem byte_ctrOutput_ctrOutput {n : Nat} (d ks : Block) {j : Fin 16} (hj : j.val < n) :
    (ctrOutput n (ctrOutput n d ks) ks).byte j = d.byte j := by
  simp [hj]

/-- On a whole block the output is DIN XOR the keystream block (R167). -/
theorem ctrOutput_full (d ks : Block) : ctrOutput 16 d ks = d.xor ks :=
  Block.ext_bytes fun j => by rw [byte_ctrOutput, if_pos j.isLt, Block.byte_xor]

theorem ctrBlock_zero (o : CtrOrder) : ctrBlock o .zero 0 = .zero := by
  cases o <;> decide

/-- The first keystream block of R167's example. -/
theorem cipher_ctr_example_block : cipher .zero (keyExpansion (.ofHex 0x000102030405060708090a0b0c0d0e0f)) =
    .ofHex 0xc6a13b37878f5b826f4f8162a1c8d879 := by
  decide +kernel

theorem ctrOutput_example : ctrOutput 5 (.ofHex 0x48656c6c6f0000000000000000000000)
    (.ofHex 0xc6a13b37878f5b826f4f8162a1c8d879) = .ofHex 0x8ec4575be80000000000000000000000 := by
  decide

theorem ctrLo_toNat (v : BitVec 64) : (ctrLo v).toNat = v.toNat % 2 ^ 32 := by
  simp [ctrLo]

theorem ctrHi_toNat (v : BitVec 64) : (ctrHi v).toNat = v.toNat / 2 ^ 32 := by
  have := v.isLt
  rw [ctrHi, BitVec.extractLsb'_toNat, Nat.shiftRight_eq_div_pow]
  omega

/-- CTRLO advances by 1, wrapping at 2^32 (R168). -/
theorem ctrLo_add_one (v : BitVec 64) : ctrLo (v + 1) = ctrLo v + 1 := by
  have sum : (v + 1).toNat = (v.toNat + 1) % 2 ^ 64 := BitVec.toNat_add v 1
  have sumLo : (ctrLo v + 1).toNat = ((ctrLo v).toNat + 1) % 2 ^ 32 := BitVec.toNat_add _ 1
  apply BitVec.eq_of_toNat_eq
  rw [sumLo, ctrLo_toNat, ctrLo_toNat, sum]
  omega

/-- The carry out of CTRLO goes into CTRHI (R168). -/
theorem ctrHi_add_one (v : BitVec 64) : ctrHi (v + 1) = if ctrLo v = 0xFFFFFFFF#32 then ctrHi v + 1 else ctrHi v := by
  have carry : ctrLo v = 0xFFFFFFFF#32 ↔ v.toNat % 2 ^ 32 = 0xFFFFFFFF := by
    rw [← BitVec.toNat_inj, ctrLo_toNat]; rfl
  have sum : (v + 1).toNat = (v.toNat + 1) % 2 ^ 64 := BitVec.toNat_add v 1
  have sumHi : (ctrHi v + 1).toNat = ((ctrHi v).toNat + 1) % 2 ^ 32 := BitVec.toNat_add _ 1
  have bound := v.isLt
  apply BitVec.eq_of_toNat_eq
  rw [ctrHi_toNat, sum]
  simp only [carry]
  split
  · rw [sumHi, ctrHi_toNat]; omega
  · rw [ctrHi_toNat]; omega

end Sys2Proof

namespace Sys2Proof.Machine

/-- The first bytes of DIN decide what CTRXOR does; DIN itself is kept (R167). -/
theorem exec_ctrxor_setDin {n : BitVec 5} (hn : 1 ≤ n.toNat ∧ n.toNat ≤ 16) (s : State) {d : Block}
    (h : ∀ j : Fin 16, j.val < n.toNat → d.byte j = s.din.byte j) :
    exec (.ctrxor n) (s.setDin d) = onNext (exec (.ctrxor n) s) (fun t => t.setDin d) := by
  rw [exec_ctrxor_legal _ hn, exec_ctrxor_legal _ hn, ensureRoundKeys_setDin, State.setDin_din, ctrOutput_congr h]; rfl

/-- CTRXOR undoes itself, with CTR set back and DOUT copied to DIN, on the bytes it encrypts (R167). -/
theorem exec_ctrxor_of_ctrxor {n : BitVec 5} (hn : 1 ≤ n.toNat ∧ n.toNat ≤ 16) (s : State) :
    ∃ t u, exec (.ctrxor n) s = .next t ∧ exec (.ctrxor n) ((t.setCtr s.ctr).setDin t.dout) = .next u ∧
      ∀ j : Fin 16, j.val < n.toNat → u.dout.byte j = s.din.byte j := by
  refine ⟨_, _, exec_ctrxor_legal s hn, exec_ctrxor_legal _ hn, fun j hj => ?_⟩
  simpa [ensureRoundKeys_setDin, ensureRoundKeys_setCtr, ensureRoundKeys_setDout] using
    byte_ctrOutput_ctrOutput s.din _ hj

/-- CTRXOR where RKV = 0, as after a load of KEY (R145, R167). -/
theorem exec_ctrxor_of_invalid {s : State} {n : BitVec 5} (hn : 1 ≤ n.toNat ∧ n.toNat ≤ 16) (hv : s.rkv = false) :
    ∃ t, exec (.ctrxor n) s = .next t ∧ t.ctr = s.ctr + 1 ∧ t.dout = ctrOutput n.toNat s.din
      (cipher (ctrBlock s.params.ctrOrder s.nonce s.ctr) (keyExpansion s.key)) :=
  ⟨_, exec_ctrxor_legal s hn, rfl, by simp [ensureRoundKeys_of_invalid s hv]⟩

/-- R167's example: at counter 0 the two orders give one counter block, so the order does not show. -/
theorem exec_ctrxor_example (s : State) {d : Block}
    (h : ∀ j : Fin 16, j.val < 5 → d.byte j = (Block.ofHex 0x48656c6c6f0000000000000000000000).byte j) :
    ∃ t, exec (.ctrxor 5)
      ((((withKey (.ofHex 0x000102030405060708090a0b0c0d0e0f) s).setNonce .zero).setCtr 0).setDin d) = .next t ∧
      t.dout = .ofHex 0x8ec4575be80000000000000000000000 ∧ t.ctr = 1 := by
  obtain ⟨t, run, ctr, dout⟩ := exec_ctrxor_of_invalid (n := 5)
    (s := (((withKey (.ofHex 0x000102030405060708090a0b0c0d0e0f) s).setNonce .zero).setCtr 0).setDin d) (by decide) rfl
  refine ⟨t, run, dout.trans ?_, ctr⟩
  calc ctrOutput 5 d (cipher (ctrBlock s.params.ctrOrder .zero 0) (keyExpansion (.ofHex 0x000102030405060708090a0b0c0d0e0f)))
    _ = ctrOutput 5 (.ofHex 0x48656c6c6f0000000000000000000000) (.ofHex 0xc6a13b37878f5b826f4f8162a1c8d879) := by
      rw [ctrBlock_zero, cipher_ctr_example_block, ctrOutput_congr h]
    _ = .ofHex 0x8ec4575be80000000000000000000000 := ctrOutput_example

theorem encode_ctrxor_toNat (n : BitVec 5) : (encode (.ctrxor n)).toNat = 0x24000000 + n.toNat := by
  have opc : (Instr.ctrxor n).opc.toNat = 0x24 := rfl
  have fields : (Instr.ctrxor n).fields.toNat = n.toNat := zeroAppend_toNat n
  rw [encode_toNat, opc, fields]; norm_num

/-- Settles O42: the output byte by byte, and CTR's advance, after EnsureRoundKeys. -/
theorem ctrxorCommand : Obligations.CtrxorCommand :=
  ⟨encode_ctrxor_toNat,
    fun _ s lo hi => ⟨_, exec_ctrxor_legal s ⟨lo, hi⟩, byte_ctrOutput _ s.din _, BitVec.toNat_add s.ctr 1, rfl⟩,
    reservedRaises_of_row (Instr.ctrxor 0).row_mem, fun _ s => exec_ctrxor_illegal s,
    fun _ s _ lo hi => exec_ctrxor_setDin ⟨lo, hi⟩ s, fun _ s lo hi => exec_ctrxor_of_ctrxor ⟨lo, hi⟩ s,
    fun s _ => exec_ctrxor_example s⟩

/-- Settles O43: CTR's sum read in its two halves. -/
theorem counterIncrement : Obligations.CounterIncrement :=
  fun _ s lo hi => ⟨_, exec_ctrxor_legal s ⟨lo, hi⟩, BitVec.toNat_add s.ctr 1, ensureRoundKeys_errcode s,
    ensureRoundKeys_nonce s, ctrLo_add_one s.ctr, ctrHi_add_one s.ctr⟩

/-! ### Runs of mode commands (R169 to R172)

What a mode command reads besides DIN, CHAIN and CTR is the same all through a run: `SameContext`. -/

/-- `t` has the round keys that EnsureRoundKeys gives at `s`, and the NONCE and parameters of `s`. -/
structure SameContext (s t : State) : Prop where
  roundKeys : (ensureRoundKeys t).rk = (ensureRoundKeys s).rk
  nonce : t.nonce = s.nonce
  params : t.params = s.params

theorem SameContext.trans {s t u : State} (h : SameContext s t) (h' : SameContext t u) : SameContext s u :=
  ⟨h'.roundKeys.trans h.roundKeys, h'.nonce.trans h.nonce, h'.params.trans h.params⟩

theorem sameContext_setDin (s : State) (b : Block) : SameContext s (s.setDin b) := by
  constructor <;> simp [ensureRoundKeys_setDin]

theorem sameContext_setChain (s : State) (b : Block) : SameContext s (s.setChain b) := by
  constructor <;> simp [ensureRoundKeys_setChain]

theorem sameContext_setCtr (s : State) (v : BitVec 64) : SameContext s (s.setCtr v) := by
  constructor <;> simp [ensureRoundKeys_setCtr]

theorem exec_sameContext {i : Instr} {s t : State} (hw : i.wellFormed = true) (hu : usesRoundKeys i = true)
    (h : exec i s = .next t) : SameContext s t := by
  obtain ⟨hrk, hrkv⟩ := (exec_legal_cases hw h).roundKeys_of_uses hu
  exact ⟨by rw [ensureRoundKeys_of_valid t hrkv, hrk], (exec_frame h).nonce, (exec_frame h).params⟩

/-- A run of CTRXOR advances CTR by its length, wrapping at 2^64 (R168, R169). -/
theorem execAll_replicate_ctrxor (k : Nat) (s : State) :
    ∃ t, execAll (List.replicate k (.ctrxor 16)) s = .next t ∧ t.ctr = s.ctr + .ofNat 64 k ∧ SameContext s t := by
  induction k generalizing s with
  | zero => exact ⟨s, rfl, by simp, rfl, rfl, rfl⟩
  | succ k ih =>
    have first := exec_ctrxor_legal s (n := 16) (by decide)
    obtain ⟨t, run, ctr, same⟩ := ih _
    refine ⟨t, ?_, ctr.trans ?_, (exec_sameContext rfl rfl first).trans same⟩
    · rw [List.replicate_succ, execAll, first]; exact run
    · rw [State.setCtr_ctr, BitVec.add_assoc, BitVec.ofNat_add, BitVec.add_comm 1]; rfl

/-- What CTRXOR outputs depends on DIN, CTR and the context alone (R167, R169). -/
theorem exec_ctrxor_dout_eq {n : BitVec 5} (hn : 1 ≤ n.toNat ∧ n.toNat ≤ 16) {s t : State} (same : SameContext s t)
    (din : t.din = s.din) (ctr : t.ctr = s.ctr) :
    ∃ u v, exec (.ctrxor n) t = .next u ∧ exec (.ctrxor n) s = .next v ∧ u.dout = v.dout :=
  ⟨_, _, exec_ctrxor_legal t hn, exec_ctrxor_legal s hn, by simp [same.roundKeys, same.nonce, same.params, din, ctr]⟩

/-- Settles O44: the run from CTR = 0 and the direct write reach one CTR in one context. -/
theorem ctrSeekable : Obligations.CtrSeekable := by
  intro k s n d lo hi
  obtain ⟨t, run, ctr, same⟩ := execAll_replicate_ctrxor k (s.setCtr 0)
  have ctr : t.ctr = .ofNat 64 k := by rw [ctr, State.setCtr_ctr, BitVec.ofNat_eq_ofNat, BitVec.zero_add]
  have same : SameContext ((s.setCtr (.ofNat 64 k)).setDin d) (t.setDin d) :=
    ⟨by simpa [ensureRoundKeys_setDin, ensureRoundKeys_setCtr] using same.roundKeys, same.nonce, same.params⟩
  obtain ⟨u, v, hu, hv, dout⟩ := exec_ctrxor_dout_eq ⟨lo, hi⟩ same rfl ctr
  exact ⟨t, u, v, run, ctr, hu, hv, dout⟩

/-! Messages of whole blocks. -/

/-- The first block of a message, then the rest of it. -/
theorem execBlocks_cons {i : Instr} {b : Block} {rest out : List Block} {s t u : State}
    (first : exec i (s.setDin b) = .next t) (later : execBlocks i rest t = some (out, u)) :
    execBlocks i (b :: rest) s = some (t.dout :: out, u) := by
  simp only [execBlocks, first, later]

/-- A message keeps the context, if its command is a legal one that uses the round keys. -/
theorem execBlocks_sameContext {i : Instr} (hw : i.wellFormed = true) (hu : usesRoundKeys i = true) {msg out : List Block}
    {s u : State} (h : execBlocks i msg s = some (out, u)) : SameContext s u := by
  induction msg generalizing s out with
  | nil => cases h; exact ⟨rfl, rfl, rfl⟩
  | cons b rest ih =>
    obtain ⟨t, ht⟩ := exec_answers_next (s.setDin b) i
    simp only [execBlocks, ht] at h
    split at h
    · rename_i later
      cases h
      exact ((sameContext_setDin s b).trans (exec_sameContext hw hu ht)).trans (ih later)
    · cases h

/-! One block of a message in each mode. -/

theorem exec_block_sameContext {i : Instr} {s t : State} {b : Block} (hw : i.wellFormed = true) (hu : usesRoundKeys i = true)
    (h : exec i (s.setDin b) = .next t) : SameContext s t :=
  (sameContext_setDin s b).trans (exec_sameContext hw hu h)

theorem exec_ecbenc_block (s : State) (p : Block) : ∃ t, exec (.ecbenc 16) (s.setDin p) = .next t ∧ SameContext s t ∧
    t.dout = cipher p (ensureRoundKeys s).rk :=
  have run := exec_ecbenc_full (s.setDin p)
  ⟨_, run, exec_block_sameContext rfl rfl run, by simp [ensureRoundKeys_setDin]⟩

theorem exec_ecbdec_block (s : State) (c : Block) : ∃ t, exec (.ecbdec 16) (s.setDin c) = .next t ∧ SameContext s t ∧
    t.dout = invCipher c (ensureRoundKeys s).rk :=
  have run := exec_ecbdec_full (s.setDin c)
  ⟨_, run, exec_block_sameContext rfl rfl run, by simp [ensureRoundKeys_setDin]⟩

theorem exec_cbcenc_block (s : State) (p : Block) : ∃ t, exec (.cbcenc 16) (s.setDin p) = .next t ∧ SameContext s t ∧
    t.dout = cipher (p.xor s.chain) (ensureRoundKeys s).rk ∧ t.chain = t.dout :=
  have run := exec_cbcenc_full (s.setDin p)
  ⟨_, run, exec_block_sameContext rfl rfl run, by simp [ensureRoundKeys_setDin], rfl⟩

theorem exec_cbcdec_block (s : State) (c : Block) : ∃ t, exec (.cbcdec 16) (s.setDin c) = .next t ∧ SameContext s t ∧
    t.dout = (invCipher c (ensureRoundKeys s).rk).xor s.chain ∧ t.chain = c :=
  have run := exec_cbcdec_full (s.setDin c)
  ⟨_, run, exec_block_sameContext rfl rfl run, by simp [ensureRoundKeys_setDin], rfl⟩

theorem exec_ctrxor_block (s : State) (p : Block) : ∃ t, exec (.ctrxor 16) (s.setDin p) = .next t ∧ SameContext s t ∧
    t.dout = p.xor (cipher (ctrBlock s.params.ctrOrder s.nonce s.ctr) (ensureRoundKeys s).rk) ∧ t.ctr = s.ctr + 1 :=
  have run := exec_ctrxor_legal (s.setDin p) (n := 16) (by decide)
  ⟨_, run, exec_block_sameContext rfl rfl run, by simp [ensureRoundKeys_setDin, ctrOutput_full], rfl⟩

/-! A message in each mode, block by block. -/

/-- The blocks of an ECB message are independent: `f` is Cipher or InvCipher (R170). -/
theorem execBlocks_ecb {i : Instr} {f : Block → RoundKeys → Block}
    (block : ∀ s b, ∃ t, exec i (s.setDin b) = .next t ∧ SameContext s t ∧ t.dout = f b (ensureRoundKeys s).rk)
    (msg : List Block) (s : State) : ∃ u, execBlocks i msg s = some (msg.map (f · (ensureRoundKeys s).rk), u) := by
  induction msg generalizing s with
  | nil => exact ⟨s, rfl⟩
  | cons b rest ih =>
    obtain ⟨t, first, same, dout⟩ := block s b
    obtain ⟨u, later⟩ := ih t
    rw [same.roundKeys] at later
    exact ⟨u, by rw [execBlocks_cons first later, dout]; rfl⟩

/-- A CBC encryption, and CHAIN after it (R171). -/
theorem execBlocks_cbcenc (msg : List Block) (s : State) :
    ∃ u, execBlocks (.cbcenc 16) msg s = some (cbcMessage (ensureRoundKeys s).rk s.chain msg, u) ∧
      u.chain = (cbcMessage (ensureRoundKeys s).rk s.chain msg).getLastD s.chain := by
  induction msg generalizing s with
  | nil => exact ⟨s, rfl, rfl⟩
  | cons p rest ih =>
    obtain ⟨t, first, same, dout, chain⟩ := exec_cbcenc_block s p
    obtain ⟨u, later, last⟩ := ih t
    rw [same.roundKeys, chain, dout] at later last
    exact ⟨u, by rw [execBlocks_cons first later, dout]; rfl, last.trans List.getLastD_cons.symm⟩

/-- A CBC decryption of a CBC ciphertext, from the CHAIN it was made with, and CHAIN after it (R171). -/
theorem execBlocks_cbcdec (msg : List Block) (s : State) :
    ∃ u, execBlocks (.cbcdec 16) (cbcMessage (ensureRoundKeys s).rk s.chain msg) s = some (msg, u) ∧
      u.chain = (cbcMessage (ensureRoundKeys s).rk s.chain msg).getLastD s.chain := by
  induction msg generalizing s with
  | nil => exact ⟨s, rfl, rfl⟩
  | cons p rest ih =>
    obtain ⟨t, first, same, dout, chain⟩ := exec_cbcdec_block s (cipher (p.xor s.chain) (ensureRoundKeys s).rk)
    obtain ⟨u, later, last⟩ := ih t
    rw [same.roundKeys, chain] at later last
    rw [invCipher_cipher_xor] at dout
    exact ⟨u, by rw [cbcMessage, execBlocks_cons first later, dout], last.trans List.getLastD_cons.symm⟩

/-- A CTR encryption or decryption (R172). -/
theorem execBlocks_ctrxor (msg : List Block) (s : State) : ∃ u, execBlocks (.ctrxor 16) msg s =
    some (ctrMessage s.params.ctrOrder s.nonce (ensureRoundKeys s).rk s.ctr msg, u) := by
  induction msg generalizing s with
  | nil => exact ⟨s, rfl⟩
  | cons p rest ih =>
    obtain ⟨t, first, same, dout, ctr⟩ := exec_ctrxor_block s p
    obtain ⟨u, later⟩ := ih t
    rw [same.roundKeys, same.nonce, same.params, ctr] at later
    exact ⟨u, by rw [execBlocks_cons first later, dout]; rfl⟩

/-- CTR decryption is CTR encryption (R172). -/
theorem ctrMessage_ctrMessage (o : CtrOrder) (n : Nonce) (rk : RoundKeys) (v : BitVec 64) (msg : List Block) :
    ctrMessage o n rk v (ctrMessage o n rk v msg) = msg := by
  induction msg generalizing v with
  | nil => rfl
  | cons p rest ih => simp only [ctrMessage, Block.xor_xor_cancel, ih]

theorem execBlocks_ecb_roundTrip (msg : List Block) (s : State) :
    ∃ t, execBlocks (.ecbenc 16) msg s = some (msg.map (cipher · (ensureRoundKeys s).rk), t) ∧
      ∃ u, execBlocks (.ecbdec 16) (msg.map (cipher · (ensureRoundKeys s).rk)) t = some (msg, u) := by
  obtain ⟨t, enc⟩ := execBlocks_ecb exec_ecbenc_block msg s
  obtain ⟨u, dec⟩ := execBlocks_ecb exec_ecbdec_block (msg.map (cipher · (ensureRoundKeys s).rk)) t
  have same := execBlocks_sameContext rfl rfl enc
  exact ⟨t, enc, u, dec.trans (by simp [same.roundKeys, Function.comp_def, invCipher_cipher])⟩

theorem execBlocks_cbc_roundTrip (msg : List Block) (s : State) :
    ∃ t, execBlocks (.cbcenc 16) msg s = some (cbcMessage (ensureRoundKeys s).rk s.chain msg, t) ∧
      t.chain = (cbcMessage (ensureRoundKeys s).rk s.chain msg).getLastD s.chain ∧
      ∃ u, execBlocks (.cbcdec 16) (cbcMessage (ensureRoundKeys s).rk s.chain msg) (t.setChain s.chain) = some (msg, u) ∧
        u.chain = t.chain := by
  obtain ⟨t, enc, last⟩ := execBlocks_cbcenc msg s
  obtain ⟨u, dec, last'⟩ := execBlocks_cbcdec msg (t.setChain s.chain)
  have same := (execBlocks_sameContext rfl rfl enc).trans (sameContext_setChain t s.chain)
  rw [same.roundKeys] at dec last'
  exact ⟨t, enc, last, u, dec, last'.trans last.symm⟩

theorem execBlocks_ctr_roundTrip (msg : List Block) (s : State) :
    ∃ t, execBlocks (.ctrxor 16) msg s =
        some (ctrMessage s.params.ctrOrder s.nonce (ensureRoundKeys s).rk s.ctr msg, t) ∧
      ∃ u, execBlocks (.ctrxor 16) (ctrMessage s.params.ctrOrder s.nonce (ensureRoundKeys s).rk s.ctr msg)
        (t.setCtr s.ctr) = some (msg, u) := by
  obtain ⟨t, enc⟩ := execBlocks_ctrxor msg s
  obtain ⟨u, dec⟩ := execBlocks_ctrxor (ctrMessage s.params.ctrOrder s.nonce (ensureRoundKeys s).rk s.ctr msg)
    (t.setCtr s.ctr)
  have same := (execBlocks_sameContext rfl rfl enc).trans (sameContext_setCtr t s.ctr)
  rw [same.roundKeys, same.nonce, same.params, State.setCtr_ctr, ctrMessage_ctrMessage] at dec
  exact ⟨t, enc, u, dec⟩

/-- Settles O46: each mode block by block, and back in the context that encryption kept; current round keys are KEY's. -/
theorem messagesFollowTheModes : Obligations.MessagesFollowTheModes := by
  intro s msg current
  rw [← ensureRoundKeys_rk_of_current current]
  exact ⟨execBlocks_ecb_roundTrip msg s, execBlocks_cbc_roundTrip msg s, execBlocks_ctr_roundTrip msg s⟩

end Sys2Proof.Machine

/-! ### The NOP command (R180) -/

namespace Sys2Proof.Machine

/-- The engine's step of the word 0 clears BUSY and changes nothing else: the word is NOP, and NOP has no effect (R180). -/
theorem step_of_nop {s : State} {rest : List Event} (turn : engineNext s rest) (hp : s.pending = 0x00000000#32) :
    step s = .next ((s.setInputs rest).setBusy false) := by
  have decoded : decode s.pending = .ok .nop := by rw [hp]; decide
  rw [step_of_decode turn decoded, exec_nop]
  rfl

/-- Settles O47: NOP has no operand bits, so every bit below its OPC is reserved, and its word's step only clears BUSY. -/
theorem nopCommand : Obligations.NopCommand :=
  ⟨by decide, exec_nop, reservedRaises_of_row Instr.nop.row_mem, fun _ _ => step_of_nop⟩

end Sys2Proof.Machine

/-! ### Recording an error, the error codes' numbers and the fields of STATUS (R31, R32, R191, R192) -/

namespace Sys2Proof.Machine

theorem ErrCode.code_eq_zero_iff (e : ErrCode) : e.code = 0 ↔ e = .none := by
  cases e <;> decide

/-- ERRF is 1 exactly while an error is kept (R31, R191). -/
theorem errf_iff (s : State) : errf s = true ↔ s.errcode ≠ .none := by
  rw [errf, bne_iff_ne, ne_eq, ErrCode.code_eq_zero_iff]

/-- STATUS from bit 0 up: BUSY, RKV, ERRF, and 0 above (R31). -/
theorem getLsbD_regWord_status (s : State) (j : Nat) :
    (regWord .status s).getLsbD j = [s.busy, s.rkv, errf s].getD j false := by
  simp only [regWord, statusWord, BitVec.getLsbD_append]
  match j with
  | 0 => simp
  | 1 => simp
  | 2 => simp
  | j + 3 => simp

/-- The error kept after a record: the first since the last clear (R191). -/
@[simp] theorem recordError_errcode (e : ErrCode) (s : State) :
    (recordError e s).errcode = if s.errcode = .none then e else s.errcode := by
  rw [recordError_eq, State.setErrcode_errcode]

theorem recordError_errcode_ne_none {e : ErrCode} (h : e ≠ .none) (s : State) : (recordError e s).errcode ≠ .none := by
  rw [recordError_errcode]
  split
  · exact h
  · assumption

theorem recordError_recordError {e : ErrCode} (h : e ≠ .none) (e' : ErrCode) (s : State) :
    recordError e' (recordError e s) = recordError e s :=
  recordError_of_kept _ (recordError_errcode_ne_none h s)

/-- Settles O48: ERRCODE is 0 exactly if no error is kept, and ERRF is bit 2 of STATUS. -/
theorem recordErrorIsSticky : Obligations.RecordErrorIsSticky :=
  ⟨fun _ s h => recordError_of_none s ((ErrCode.code_eq_zero_iff _).1 h),
    fun _ s h => recordError_of_kept s (mt (ErrCode.code_eq_zero_iff _).2 h),
    fun s => by rw [getLsbD_regWord_status, ne_eq, ErrCode.code_eq_zero_iff]; exact errf_iff s⟩

/-- Settles O49: the seven codes one by one, and STATUS bit by bit. -/
theorem errorCodesAndStatusFields : Obligations.ErrorCodesAndStatusFields := by
  refine ⟨rfl, fun e => by cases e <;> decide, fun s => ?_, fun s => ?_⟩
  · simp only [getLsbD_regWord_status]
    exact ⟨rfl, rfl, errf_iff s, fun j hj => List.getD_eq_default _ _ hj⟩
  · rw [regWord, errcodeWord, zeroAppend_toNat]

end Sys2Proof.Machine

/-! ### The priority of a word's errors (R200) -/

namespace Sys2Proof.Machine

/-- A word raises at most one error: where none is kept, its execution records that one. -/
theorem raises_unique {w : Word} {e e' : ErrCode} (h : raises w e) (h' : raises w e') : e = e' := by
  have same := (executeWord_of_raises h State.reset).symm.trans (executeWord_of_raises h' State.reset)
  exact congrArg State.errcode (Host.Outcome.next.inj same)

/-- A word that raises no error is the word of a command with legal operands. -/
theorem decode_wellFormed_of_not_raises {w : Word} (h : ∀ e, ¬raises w e) : ∃ i, decode w = .ok i ∧ i.wellFormed = true := by
  obtain ⟨t, ht⟩ := executeWord_answers_next w State.reset
  rcases executeWord_cases ht with ⟨e, -, error⟩ | ⟨i, hd, hw, -⟩
  · exact absurd error (h e)
  · exact ⟨i, hd, hw⟩

/-- R200's third example has no reserved bit set, for it decodes. -/
theorem raises_ark_11 : raises 0x1600000B#32 .roundRange := by
  have clear : ¬reservedBitSet 0x1600000B#32 := fun hb =>
    absurd ((decode_eq_reserved_iff 0x1600000B#32).2 ⟨by decide, hb⟩) (by decide)
  exact .inr (.inr (.inl ⟨by decide, clear, by decide, by decide, rfl⟩))

/-- Settles O9: the error raised is the one that execution records, and execution that records none runs a legal command. -/
theorem errorPriority : Obligations.ErrorPriority :=
  ⟨fun _ _ _ => raises_unique, fun _ _ s h => executeWord_of_raises h s, fun _ => decode_wellFormed_of_not_raises,
    .inl ⟨by decide, rfl⟩, .inr (.inl ⟨by decide, ⟨4, by decide⟩, rfl⟩), raises_ark_11, fun _ _ _ => step_of_access,
    fun _ e' s h => recordError_recordError h e' s⟩

end Sys2Proof.Machine

/-! ### Errors have no other effect, and a kept one blocks nothing (R199, R202) -/

namespace Sys2Proof.Machine

/-- Settles O50: the step of a failing word is RecordError and the end of the command, and a write while BUSY = 1 is dropped. -/
theorem errorsArePrecise : Obligations.ErrorsArePrecise := by
  refine ⟨fun s rest e turn error => ?_, fun s off v busy => ?_⟩
  · rw [step_of_recordError turn (executeWord_of_raises error), recordError_eq]
    rfl
  · obtain ⟨e, he⟩ := memWrite_busy s off v busy
    rw [he, State.setErrcode_errcode]

/-- A write to ERRCODE clears it, whatever the data (R32, R202). -/
theorem memWrite_errcode {off : BitVec 9} (row : windowReg off = .errcode) (v : Word) (s : State) :
    memWrite off v s = s.setErrcode .none := by
  rw [memWrite, row]
  rfl

/-- A command with legal operands does not read ERRCODE and leaves it as it is (R202). -/
theorem exec_setErrcode {i : Instr} (s : State) (e : ErrCode) (hw : i.wellFormed = true) :
    exec i (s.setErrcode e) = onNext (exec i s) (fun t => t.setErrcode e) := by
  cases i <;> simp only [Instr.wellFormed, beq_iff_eq, decide_eq_true_eq, Bool.and_eq_true] at hw
  case ark round => rw [exec_ark_legal _ hw, exec_ark_legal _ hw]; simp only [ensureRoundKeys_setErrcode]; rfl
  case encblk => rw [exec_encblk, exec_encblk, ensureRoundKeys_setErrcode]; rfl
  case decblk => rw [exec_decblk, exec_decblk, ensureRoundKeys_setErrcode]; rfl
  case ecbenc n => subst hw; rw [exec_ecbenc_full, exec_ecbenc_full, ensureRoundKeys_setErrcode]; rfl
  case ecbdec n => subst hw; rw [exec_ecbdec_full, exec_ecbdec_full, ensureRoundKeys_setErrcode]; rfl
  case cbcenc n => subst hw; rw [exec_cbcenc_full, exec_cbcenc_full, ensureRoundKeys_setErrcode]; rfl
  case cbcdec n => subst hw; rw [exec_cbcdec_full, exec_cbcdec_full, ensureRoundKeys_setErrcode]; rfl
  case ctrxor n => rw [exec_ctrxor_legal _ hw, exec_ctrxor_legal _ hw, ensureRoundKeys_setErrcode]; rfl
  all_goals rfl

/-- No command replaces an error that is kept: a legal one leaves ERRCODE alone, and an illegal one only records an error. -/
theorem exec_keeps_error (i : Instr) {s : State} (kept : s.errcode ≠ .none) :
    ∃ t, exec i s = .next t ∧ t.errcode = s.errcode := by
  cases hw : i.wellFormed with
  | true =>
    obtain ⟨t, ht⟩ := exec_answers_next s i
    exact ⟨t, ht, (exec_legal_cases hw ht).commandWriters.errcode⟩
  | false => exact ⟨_, exec_of_not_wellFormed s hw, by rw [recordError_of_kept s kept]⟩

/-- Settles O51: offset 0x008 is ERRCODE's, and of the commands only those with illegal operands touch it. -/
theorem errorIsClearedAndBlocksNothing : Obligations.ErrorIsClearedAndBlocksNothing :=
  ⟨fun s v => memWrite_errcode rfl v s, fun _ s e => exec_setErrcode s e, fun i _ => exec_keeps_error i⟩

end Sys2Proof.Machine

/-! ### The reset event (R220, R222) -/

namespace Sys2Proof

@[simp] theorem Column.toWord_zero : Column.zero.toWord = 0 := rfl

@[simp] theorem Block.word_zero (k : Fin 4) : Block.zero.word k = .zero := by
  fin_cases k <;> rfl

@[simp] theorem Nonce.word_zero (k : Fin 2) : Nonce.zero.word k = .zero := by
  fin_cases k <;> rfl

/-- Every word of the zero round keys is zero (R38). -/
@[simp] theorem scheduleWord_replicate_zero (i : Fin 44) : scheduleWord (Vector.replicate 11 .zero) i = .zero := by
  simp only [scheduleWord, Vector.getElem_replicate, Block.word_zero]

end Sys2Proof

namespace Sys2Proof.Machine

/-- Every word of the window reads 0 at the reset values of R38. -/
theorem regWord_reset (r : WinReg) : regWord r State.reset = 0 := by
  cases r with
  | cmd | status | errcode | gfres | ctrHi | ctrLo | reserved => rfl
  | key k | stateReg k | din k | dout k | chain k | nonce k | rkw i => simp [regWord, State.reset]

/-- What a reset event keeps stands in no window word, so that the host reads the words of State.reset (R220). -/
theorem regWord_resetEvent (r : WinReg) (n : Nat) (s : State) : regWord r (resetEvent n s) = regWord r State.reset := by
  cases r <;> rfl

/-- Settles O17: the step is the reset event, which takes each register, BUSY and PENDING among them, from State.reset. -/
theorem resetEventRestoresAndDiscards : Obligations.ResetEventRestoresAndDiscards :=
  fun s n rest next => ⟨resetEvent n (s.setInputs rest), step_of_reset next,
    fun r => (regWord_resetEvent r n _).trans (regWord_reset r), rfl, rfl, rfl, rfl, rfl, rfl, rfl, rfl⟩

end Sys2Proof.Machine

/-! ### Further laws of the multiplier (R101) -/

namespace Sys2Proof

/-- The product is linear in each operand, so it is symmetric if it is on the powers of two. -/
theorem multiply_comm (a b : Byte) : multiply a b = multiply b a := by
  induction a using byte_xor_induction with
  | zero => simp
  | xor a a' ih ih' => rw [multiply_xor_left, multiply_xor_right, ih, ih']
  | bit i =>
    induction b using byte_xor_induction with
    | zero => simp
    | xor b b' ih ih' => rw [multiply_xor_left, multiply_xor_right, ih, ih']
    | bit j =>
      revert i j
      decide +kernel

@[simp] theorem multiply_one_right (a : Byte) : multiply a 0x01#8 = a := by
  rw [multiply_comm, multiply_one_left]

/-- The product with 0x02 is one shift with its reduction: both are linear. -/
theorem multiply_two_right (a : Byte) : multiply a 0x02#8 = shiftReduce a := by
  induction a using byte_xor_induction with
  | zero => decide
  | xor a a' ih ih' => rw [multiply_xor_left, shiftReduce_xor, ih, ih']
  | bit i =>
    revert i
    decide

theorem shiftReduce_eq_xor (a : Byte) : shiftReduce a = (a <<< 1) ^^^ (if a.getLsbD 7 then 0x1B#8 else 0x00#8) := by
  unfold shiftReduce
  split <;> simp

/-- Two bytes whose product with `a` is 0x01 are equal: each is its product with `a` and the other. -/
theorem eq_of_multiply_eq_one {a b b' : Byte} (h : multiply a b = 0x01#8) (h' : multiply a b' = 0x01#8) : b' = b := calc
  b' = multiply b' (multiply a b) := by rw [h, multiply_one_right]
  _ = multiply (multiply a b') b := by rw [← multiply_assoc, multiply_comm b' a]
  _ = b := by rw [h', multiply_one_left]

end Sys2Proof

/-! ### The substitution tables, and inverses under `multiply` (R101, R110 to R112) -/

namespace Sys2Proof

/-- IS is a left inverse of S on a finite type, so it is a right inverse too. -/
@[simp] theorem sbox_invSbox (x : Byte) : sbox (invSbox x) = x :=
  have left : Function.LeftInverse invSbox sbox := invSbox_sbox
  left.rightInverse_of_surjective (Finite.surjective_of_injective left.injective) x

theorem sbox_ne_self (x : Byte) : sbox x ≠ x := by
  revert x
  decide +kernel

end Sys2Proof

namespace Sys2Proof.Machine

/-- The affine map of R112, with constant 0x63. -/
def affineMap (b : Byte) : Byte := b ^^^ rotl8 b 1 ^^^ rotl8 b 2 ^^^ rotl8 b 3 ^^^ rotl8 b 4 ^^^ 0x63#8

/-- The byte at which the S-box table holds the affine map of `b` is the inverse of `b` (R112). -/
theorem multiply_invSbox_affineMap {b : Byte} (h : b ≠ 0x00#8) : multiply b (invSbox (affineMap b)) = 0x01#8 := by
  revert b
  decide +kernel

/-- Settles O20: linearity of `multiply` gives the laws, and the S-box table an inverse of each nonzero byte. -/
theorem multiplyLaws : Obligations.MultiplyLaws :=
  ⟨multiply_comm, multiply_one_right, multiply_zero_right, multiply_xor_right,
    fun a => (multiply_two_right a).trans (shiftReduce_eq_xor a),
    fun _ ha => ⟨_, multiply_invSbox_affineMap ha, fun _ => eq_of_multiply_eq_one (multiply_invSbox_affineMap ha)⟩,
    by decide⟩

/-- Settles O22: the tables entry by entry; as IS is S's inverse on both sides, S is a permutation. -/
theorem substitutionTables : Obligations.SubstitutionTables :=
  ⟨by decide +kernel, by decide +kernel, by decide, by decide,
    fun y => ⟨invSbox y, sbox_invSbox y, fun x h => by rw [← h, invSbox_sbox]⟩,
    sbox_ne_self, fun x => ⟨invSbox_sbox x, sbox_invSbox x⟩⟩

/-- Settles O23: a byte has only one inverse, so `x` is the byte at which the table holds the affine map of `b`. -/
theorem sboxIsAffineOfInverse : Obligations.SboxIsAffineOfInverse := by
  intro x b inverse
  split at inverse
  · next hx =>
    subst hx inverse
    decide
  · have nonzero : b ≠ 0x00#8 := by
      rintro rfl
      simp at inverse
    have preimage : x = invSbox (affineMap b) :=
      eq_of_multiply_eq_one (multiply_invSbox_affineMap nonzero) ((multiply_comm b x).trans inverse)
    rw [preimage, sbox_invSbox]
    rfl

end Sys2Proof.Machine

/-! ### Column mixing and lanes of the transforms (R117, R118, R127) -/

namespace Sys2Proof

/-- A row times column c of a block, by the bytes `4c .. 4c+3` of the block (R117). -/
theorem rowTimesColumn_word (row : Column) (s : Block) (c : Fin 4) : rowTimesColumn row (s.word c) =
    multiply (row.byte 0) (s.byte ⟨4 * c.val, by omega⟩) ^^^ multiply (row.byte 1) (s.byte ⟨4 * c.val + 1, by omega⟩) ^^^
    multiply (row.byte 2) (s.byte ⟨4 * c.val + 2, by omega⟩) ^^^
    multiply (row.byte 3) (s.byte ⟨4 * c.val + 3, by omega⟩) := by
  rw [s.word_eq_bytes c]; rfl

theorem byte_rowTimesMatrix (row : Column) (m : Block) (k : Fin 4) : (rowTimesMatrix row m).byte k =
    rowTimesColumn row ⟨(m.word 0).byte k, (m.word 1).byte k, (m.word 2).byte k, (m.word 3).byte k⟩ := by
  fin_cases k <;> rfl

theorem byte_word_identityMatrix (r k : Fin 4) : (identityMatrix.word r).byte k = if r = k then 0x01#8 else 0x00#8 := by
  revert r k
  decide

theorem word_mixColumns (s : Block) (c : Fin 4) : (mixColumns s).word c = matrixTimesColumn mixMatrix (s.word c) :=
  Block.word_map _ s c

theorem word_invMixColumns (s : Block) (c : Fin 4) :
    (invMixColumns s).word c = matrixTimesColumn invMixMatrix (s.word c) :=
  Block.word_map _ s c

/-- The number of the byte in column c and row r of a block (R10). -/
def byteIndex (c r : Fin 4) : Fin 16 := ⟨4 * c.val + r.val, by omega⟩

/-- The column of byte i (R10). -/
def byteColumn (i : Fin 16) : Fin 4 := ⟨i.val / 4, by omega⟩

/-- The row of byte i (R10). -/
def byteRow (i : Fin 16) : Fin 4 := ⟨i.val % 4, by omega⟩

/-- The byte that ShiftRows moves to place i (R115). -/
def shiftRowsSource (i : Fin 16) : Fin 16 := byteIndex (byteColumn i + byteRow i) (byteRow i)

/-- The byte that InvShiftRows moves to place i (R116). -/
def invShiftRowsSource (i : Fin 16) : Fin 16 := byteIndex (byteColumn i - byteRow i) (byteRow i)

theorem byte_byteIndex (s : Block) (c r : Fin 4) : s.byte (byteIndex c r) = (s.word c).byte r :=
  s.byte_eq_word_byte c r _

theorem byte_shiftRows (s : Block) (i : Fin 16) : (shiftRows s).byte i = s.byte (shiftRowsSource i) :=
  (byte_word_shiftRows s (byteColumn i) (byteRow i)).trans (byte_byteIndex s _ _).symm

theorem byte_invShiftRows (s : Block) (i : Fin 16) : (invShiftRows s).byte i = s.byte (invShiftRowsSource i) :=
  (byte_word_invShiftRows s (byteColumn i) (byteRow i)).trans (byte_byteIndex s _ _).symm

/-- The two permutations undo each other, and they keep every byte in its row. -/
theorem shiftRowsSource_inverse (i : Fin 16) : invShiftRowsSource (shiftRowsSource i) = i ∧
    shiftRowsSource (invShiftRowsSource i) = i ∧ (shiftRowsSource i).val % 4 = i.val % 4 := by
  revert i
  decide

end Sys2Proof

namespace Sys2Proof.Machine

/-- Settles O25: the rows as written out, the product of the two matrices, and the column formulas by bytes. -/
theorem columnMixingFormulas : Obligations.ColumnMixingFormulas :=
  ⟨rfl, rfl, by decide, by decide,
    fun s r c => (byte_word_mixColumns s c r).trans (rowTimesColumn_word _ s c),
    fun s r c => (byte_word_invMixColumns s c r).trans (rowTimesColumn_word _ s c),
    fun r k => by rw [← byte_rowTimesMatrix, invMixMatrix_times_mixMatrix, byte_word_identityMatrix]; rfl,
    invMixColumns_mixColumns⟩

/-- A command of R120 to R125 writes STATE alone. -/
theorem exec_transform_frame : ∀ i ∈ [Instr.subb, .isubb, .shrow, .ishrow, .mixcol, .imixcol], ∀ s : State,
    ∃ t, exec i s = .next t ∧ t = s.setStateReg t.stateReg := by
  intro i hi s
  fin_cases hi
  exacts [⟨_, exec_subb s, rfl⟩, ⟨_, exec_isubb s, rfl⟩, ⟨_, exec_shrow s, rfl⟩, ⟨_, exec_ishrow s, rfl⟩,
    ⟨_, exec_mixcol s, rfl⟩, ⟨_, exec_imixcol s, rfl⟩]

/-- Settles O26: each transform's value at a byte or a column, as a function of that byte or column alone. -/
theorem laneIndependence : Obligations.LaneIndependence :=
  ⟨fun s s' i h => ⟨by rw [byte_subBytes, byte_subBytes, h], by rw [byte_invSubBytes, byte_invSubBytes, h]⟩,
    fun s s' k k' i h hk => by rw [byte_addRoundKey, byte_addRoundKey, h, hk],
    fun s s' c h => ⟨by rw [word_mixColumns, word_mixColumns, h], by rw [word_invMixColumns, word_invMixColumns, h]⟩,
    ⟨shiftRowsSource, invShiftRowsSource, shiftRowsSource_inverse,
      fun s => ⟨byte_shiftRows s, byte_invShiftRows s⟩⟩,
    exec_transform_frame, fun _ s h => ⟨_, exec_ark_legal s h, rfl⟩⟩

end Sys2Proof.Machine

/-! ### The word functions of the key schedule (R140 to R142) -/

namespace Sys2Proof

/-- Each round constant is the double of the one before (R142). -/
theorem rcon_succ {j : Nat} (h1 : 1 ≤ j) (h9 : j ≤ 9) : rcon (j + 1) = multiply (rcon j) 0x02#8 := by
  interval_cases j <;> decide

end Sys2Proof

namespace Sys2Proof.Machine

/-- Settles O31: the definitions read byte by byte, and the recurrence of the round constants. -/
theorem scheduleWordFunctions : Obligations.ScheduleWordFunctions :=
  ⟨fun _ _ _ _ => rfl, fun _ _ _ _ => rfl, rfl, fun _ => rcon_succ, fun _ _ _ _ _ => rfl⟩

end Sys2Proof.Machine

/-! ### Equal outputs of ECBENC (R173) -/

namespace Sys2Proof

theorem cipher_injective (rk : RoundKeys) : Function.Injective fun p => cipher p rk :=
  Function.LeftInverse.injective (g := fun c => invCipher c rk) fun p => invCipher_cipher p rk

end Sys2Proof

namespace Sys2Proof.Machine

/-- ECBENC with current round keys enciphers DIN under KeyExpansion(KEY) (R23, R161). -/
theorem exec_ecbenc_of_current {s : State} (h : keysCurrent s) :
    exec (.ecbenc 16) s = .next ((ensureRoundKeys s).setDout (cipher s.din (keyExpansion s.key))) := by
  rw [exec_ecbenc_full, ensureRoundKeys_rk_of_current h]

/-- Settles O45: both outputs are the cipher under one expanded key, which is injective. -/
theorem ecbOutputsEqualExactlyForEqualInputs : Obligations.EcbOutputsEqualExactlyForEqualInputs := by
  intro s s' hs hs' key
  refine ⟨_, _, exec_ecbenc_of_current hs, exec_ecbenc_of_current hs', ?_⟩
  rw [← key]
  exact (cipher_injective (keyExpansion s.key)).eq_iff

end Sys2Proof.Machine
